-- ==== Sys2Proof/Word.lean ====
section
/-! DEFINITION. The words of the machine: bytes, 16-bit words, buffer addresses and 40-bit command words
(spec/00_scope.md R5, R6; spec/30_encoding.md R55). Every value of this hardware is an unsigned bit vector. -/

namespace Sys2Proof

/-- One byte: a register, a memory byte, a register-surface operand. -/
abbrev Byte := BitVec 8

/-- One 16-bit word: the operand and result of `XFER16`, the count of `XFERBUF`, the latch `RET`. -/
abbrev Word := BitVec 16

/-- A byte address of the caller's data memory, `ADDR_W = 16` bits (R5, R40). -/
abbrev Addr := BitVec 16

/-- One command, a 40-bit value `op ++ a ++ b` (R55). -/
abbrev CmdWord := BitVec 40

end Sys2Proof
end

