-- ==== Sys2Proof/Config.lean ====
section
/-! DEFINITION. What a build and its wiring fix (spec/00_scope.md R5), and the free values of the spec: the draws it
puts under no law (R6 `draw`, spec/10_state.md R20, R25, R36; spec/60_exceptions.md R134).

The parameters are a record of plain data that the state carries and no step writes (log entry 1), so a statement
about every state is a statement about every build. The free values are constants without a body, applied to counters
of the state (log entry 2): nothing can be proved of what they are. -/

namespace Sys2Proof.Config

/-- Which driver the build holds (R2, R5 `VARIANT`). -/
inductive Variant where
  | usi | hwspi
  deriving DecidableEq, Repr

/-- What drives the data-in line (R5 `WIRING`). -/
inductive Wiring where
  | loopback | slave
  deriving DecidableEq, Repr

/-- The open parameters of R5. `INT_MASK_TABLE` is a partial function from line indexes to masks with exactly one bit
set: a list of (line index, bit number) pairs, of which the first with a given index counts. -/
structure Params where
  variant : Variant
  wiring : Wiring
  pinSck : Fin 8
  pinDo : Fin 8
  pinDi : Fin 8
  pinSs : Fin 8
  intMaskTable : List (Byte × Fin 8)
  endResetsIntMode : Bool
  hwFaultNoOverflow : Bool
  deriving DecidableEq, Repr

/-- The pins are pairwise distinct (the spec's D14). -/
def Params.pinsDistinct (p : Params) : Bool :=
  p.pinSck != p.pinDo && p.pinSck != p.pinDi && p.pinSck != p.pinSs &&
  p.pinDo != p.pinDi && p.pinDo != p.pinSs && p.pinDi != p.pinSs

/-- The values R5 gives; `WIRING` and `INT_MASK_TABLE`, to which it gives none, are DESIGN CHOICES: a slave that answers
anything, and a table that recognises no index (log entry 1, unsafe for a statement that rests on them). -/
def Params.default : Params where
  variant := .usi
  wiring := .slave
  pinSck := 2
  pinDo := 1
  pinDi := 0
  pinSs := 3
  intMaskTable := []
  endResetsIntMode := false
  hwFaultNoOverflow := false

/-- The level of the data-in line at the `k`-th draw of the `WIRE` agent (R8, R25): a free value, log entry 2, safe. -/
opaque wireLevel : Nat → Bool

/-- `STAT` bits 7, 5 and 4 (in this order, bit 7 highest) at the `k`-th read of `STAT` (R20): a free value, log entry
2, safe. -/
opaque statBits : Nat → BitVec 3

/-- How many steps the interrupt agent takes at the `k`-th `yield` with interrupts enabled (R134, "any number of such
steps may happen at one yield"): a free value, log entry 2, safe. -/
opaque preempts : Nat → Nat

end Sys2Proof.Config
end

