-- ==== Sys2Proof/Syntax.lean ====
section
/-! DEFINITION. The commands of spec/opcode_table.json, one constructor a row, and the names their operands use
(spec/10_state.md R10, R28; spec/30_encoding.md R56 to R60). -/

namespace Sys2Proof

/-- The seven registers (R10), in the order of their numbers 0 to 6. -/
inductive Reg where
  | ctrl | stat | data | ddr | port | sreg | hctrl
  deriving DecidableEq, Repr

/-- The four data modes of the source's enumeration (R28, R59). -/
inductive DataMode where
  | mode0 | mode1 | mode2 | mode3
  deriving DecidableEq, Repr

/-- The fourteen commands (R60). `BEGIN` and `END` have one word each in both build variants. -/
inductive Instr where
  /-- `BEGIN` (R71 in the USI variant, R114 in the HWSPI variant). -/
  | beginCmd
  /-- `END` (R75 in the USI variant, R116 in the HWSPI variant). -/
  | endCmd
  /-- `SETMODE mode` (R73). -/
  | setMode (mode : DataMode)
  /-- `XFER8 imm8` (R86). -/
  | xfer8 (imm8 : Byte)
  /-- `XFER16 imm16` (R87). -/
  | xfer16 (imm16 : Word)
  /-- `XFERBUF addr, count` (R89). -/
  | xferBuf (addr : Addr) (count : Word)
  /-- `RDREG reg` (R102). -/
  | rdReg (reg : Reg)
  /-- `WRREG reg, val` (R103). -/
  | wrReg (reg : Reg) (val : Byte)
  /-- `SETBITS reg, mask` (R107). -/
  | setBits (reg : Reg) (mask : Byte)
  /-- `CLRBITS reg, mask` (R108). -/
  | clrBits (reg : Reg) (mask : Byte)
  /-- `USEINT n` (R119). -/
  | useInt (n : Byte)
  /-- `NOUSEINT n` (R121). -/
  | noUseInt (n : Byte)
  /-- `ATTACHINT` (R123). -/
  | attachInt
  /-- `DETACHINT` (R124). -/
  | detachInt
  deriving DecidableEq, Repr

end Sys2Proof
end

