-- ==== Sys2Proof/WellFormed.lean ====
section
/-! DEFINITION. Which terms of `Instr` are commands of the hardware (spec/30_encoding.md R58): `SETBITS` and `CLRBITS`
do not name `STAT` or `DATA`. Every other operand of a constructor is in range by its type. -/

namespace Sys2Proof

/-- The registers `SETBITS` and `CLRBITS` may name (R58). -/
def Reg.bitAccessible : Reg → Bool
  | .stat | .data => false
  | .ctrl | .ddr | .port | .sreg | .hctrl => true

/-- The term has an encoding (R58). -/
def Instr.wellFormed : Instr → Bool
  | .setBits r _ => r.bitAccessible
  | .clrBits r _ => r.bitAccessible
  | .beginCmd | .endCmd | .setMode _ | .xfer8 _ | .xfer16 _ | .xferBuf _ _ | .rdReg _ | .wrReg _ _
  | .useInt _ | .noUseInt _ | .attachInt | .detachInt => true

end Sys2Proof
end

