-- ==== Sys2Proof/Decode.lean ====
section
/-! DEFINITION. The decoder, total on every 40-bit word, and the encoder (spec/30_encoding.md R55 to R66,
spec/opcode_table.json). A word is one value, so there is no byte order (R55). -/

namespace Sys2Proof

/-- Why a word is invalid (R61). -/
inductive InvalidWord where
  /-- `op` is none of the fourteen opcodes (R60). -/
  | unassignedOpcode
  /-- A bit that the word's format does not use is 1 (R56). -/
  | mustBeZeroBits
  /-- The `reg` field names no register: 7 to 15 (R58). -/
  | noSuchRegisterNumber
  /-- `SETBITS` or `CLRBITS` names `STAT` or `DATA` (R58). -/
  | notBitAccessible
  deriving DecidableEq, Repr

/-- The three fields that cover a word (R55). -/
def opField (w : CmdWord) : BitVec 8 := w.extractLsb' 32 8
@[inherit_doc opField] def aField (w : CmdWord) : BitVec 16 := w.extractLsb' 16 16
@[inherit_doc opField] def bField (w : CmdWord) : BitVec 16 := w.extractLsb' 0 16

/-- The number of a register (R10, R58). -/
def Reg.number : Reg → BitVec 4
  | .ctrl => 0 | .stat => 1 | .data => 2 | .ddr => 3 | .port => 4 | .sreg => 5 | .hctrl => 6

/-- The register of a number; 7 to 15 name none (R10, R58). -/
def Reg.ofNumber (n : BitVec 4) : Option Reg :=
  match n.toNat with
  | 0 => some .ctrl
  | 1 => some .stat
  | 2 => some .data
  | 3 => some .ddr
  | 4 => some .port
  | 5 => some .sreg
  | 6 => some .hctrl
  | _ => none

/-- The number of a data mode (R59). -/
def DataMode.number : DataMode → BitVec 2
  | .mode0 => 0 | .mode1 => 1 | .mode2 => 2 | .mode3 => 3

/-- The data mode of a number; all four are valid (R59). -/
def DataMode.ofNumber (n : BitVec 2) : DataMode :=
  match n.toNat with
  | 0 => .mode0
  | 1 => .mode1
  | 2 => .mode2
  | _ => .mode3

/-- Format `Z`: `a` and `b` all zero (R56). -/
def decodeZ (a b : BitVec 16) (i : Instr) : Except InvalidWord Instr :=
  if a = 0 ∧ b = 0 then .ok i else .error .mustBeZeroBits

/-- Format `M`: `b[1:0] = mode`, everything else zero (R56). -/
def decodeM (a b : BitVec 16) (f : DataMode → Instr) : Except InvalidWord Instr :=
  if a = 0 ∧ b.extractLsb' 2 14 = 0 then .ok (f (DataMode.ofNumber (b.extractLsb' 0 2)))
  else .error .mustBeZeroBits

/-- Format `B`: `b[7:0] = imm8`, everything else zero (R56). -/
def decodeB (a b : BitVec 16) (f : Byte → Instr) : Except InvalidWord Instr :=
  if a = 0 ∧ b.extractLsb' 8 8 = 0 then .ok (f (b.extractLsb' 0 8)) else .error .mustBeZeroBits

/-- Format `W`: `b = imm16`, `a` zero (R56). -/
def decodeW (a b : BitVec 16) (f : Word → Instr) : Except InvalidWord Instr :=
  if a = 0 then .ok (f b) else .error .mustBeZeroBits

/-- The `reg` field `a[3:0]` of formats `R` and `RV` once the must-be-zero bits are checked (R58). -/
def decodeReg (a : BitVec 16) (f : Reg → Except InvalidWord Instr) : Except InvalidWord Instr :=
  match Reg.ofNumber (a.extractLsb' 0 4) with
  | some r => f r
  | none => .error .noSuchRegisterNumber

/-- Format `R`: `a[3:0] = reg`, everything else zero (R56). -/
def decodeR (a b : BitVec 16) (f : Reg → Instr) : Except InvalidWord Instr :=
  if a.extractLsb' 4 12 = 0 ∧ b = 0 then decodeReg a fun r => .ok (f r) else .error .mustBeZeroBits

/-- Format `RV`: `a[3:0] = reg`, `b[7:0] = val`, everything else zero (R56); a command that is not well formed by R58
is refused by name. -/
def decodeRV (a b : BitVec 16) (f : Reg → Byte → Instr) : Except InvalidWord Instr :=
  if a.extractLsb' 4 12 = 0 ∧ b.extractLsb' 8 8 = 0 then
    decodeReg a fun r =>
      if (f r (b.extractLsb' 0 8)).wellFormed then .ok (f r (b.extractLsb' 0 8)) else .error .notBitAccessible
  else .error .mustBeZeroBits

/-- The opcode map (R60): `op` first, then the must-be-zero bits and the `reg` field (R66). -/
def decode (w : CmdWord) : Except InvalidWord Instr :=
  match (opField w).toNat with
  | 0x01 => decodeZ (aField w) (bField w) .beginCmd
  | 0x02 => decodeZ (aField w) (bField w) .endCmd
  | 0x03 => decodeM (aField w) (bField w) .setMode
  | 0x04 => decodeB (aField w) (bField w) .xfer8
  | 0x05 => decodeW (aField w) (bField w) .xfer16
  | 0x06 => .ok (.xferBuf (aField w) (bField w))
  | 0x08 => decodeR (aField w) (bField w) .rdReg
  | 0x09 => decodeRV (aField w) (bField w) .wrReg
  | 0x0A => decodeRV (aField w) (bField w) .setBits
  | 0x0B => decodeRV (aField w) (bField w) .clrBits
  | 0x10 => decodeB (aField w) (bField w) .useInt
  | 0x11 => decodeB (aField w) (bField w) .noUseInt
  | 0x12 => decodeZ (aField w) (bField w) .attachInt
  | 0x13 => decodeZ (aField w) (bField w) .detachInt
  | _ => .error .unassignedOpcode

/-- The command the decoder reads from an instruction of `nbits` bits numbered as spec/opcode_table.json numbers them:
a command is one 40-bit word, so its bits are the word's own; bits above `nbits` are 0. -/
def decodeTableWord (nbits w : Nat) : Option Instr :=
  if nbits ≤ 40 then (decode (BitVec.ofNat 40 (w % 2 ^ nbits))).toOption else none

/-- The word with the given fields (R55). -/
def assemble (op : BitVec 8) (a b : BitVec 16) : CmdWord := op ++ a ++ b

/-- The `a` field of formats `R` and `RV` (R56). -/
def regOperand (r : Reg) : BitVec 16 := r.number.setWidth 16

/-- The word of a command (R56, R60, R64). -/
def encode : Instr → CmdWord
  | .beginCmd => assemble 0x01 0 0
  | .endCmd => assemble 0x02 0 0
  | .setMode m => assemble 0x03 0 (m.number.setWidth 16)
  | .xfer8 v => assemble 0x04 0 (v.setWidth 16)
  | .xfer16 v => assemble 0x05 0 v
  | .xferBuf addr count => assemble 0x06 addr count
  | .rdReg r => assemble 0x08 (regOperand r) 0
  | .wrReg r v => assemble 0x09 (regOperand r) (v.setWidth 16)
  | .setBits r m => assemble 0x0A (regOperand r) (m.setWidth 16)
  | .clrBits r m => assemble 0x0B (regOperand r) (m.setWidth 16)
  | .useInt n => assemble 0x10 0 (n.setWidth 16)
  | .noUseInt n => assemble 0x11 0 (n.setWidth 16)
  | .attachInt => assemble 0x12 0 0
  | .detachInt => assemble 0x13 0 0

/-- One row of the opcode table as R66 uses it: a word is of the row when `w &&& mask = pattern`; `regs` lists the
values of its `reg` field the row's extra condition admits (all sixteen where it has no such field). -/
structure OpcodeRow where
  mnemonic : String
  mask : CmdWord
  pattern : CmdWord
  regs : List (BitVec 4)
  deriving DecidableEq, Repr

/-- Every value of a four-bit field: the row has no `reg` field. -/
def anyReg : List (BitVec 4) := [0, 1, 2, 3, 4, 5, 6, 7, 8, 9, 10, 11, 12, 13, 14, 15]

/-- `reg <= 6` (R66). -/
def namedReg : List (BitVec 4) := [0, 1, 2, 3, 4, 5, 6]

/-- `reg <= 6` and `reg` not in 1, 2 (R66). -/
def bitReg : List (BitVec 4) := [0, 3, 4, 5, 6]

/-- spec/opcode_table.json, row by row. -/
def opcodeTable : List OpcodeRow := [
  ⟨"BEGIN", 0xFFFFFFFFFF, 0x0100000000, anyReg⟩,
  ⟨"END", 0xFFFFFFFFFF, 0x0200000000, anyReg⟩,
  ⟨"SETMODE", 0xFFFFFFFFFC, 0x0300000000, anyReg⟩,
  ⟨"XFER8", 0xFFFFFFFF00, 0x0400000000, anyReg⟩,
  ⟨"XFER16", 0xFFFFFF0000, 0x0500000000, anyReg⟩,
  ⟨"XFERBUF", 0xFF00000000, 0x0600000000, anyReg⟩,
  ⟨"RDREG", 0xFFFFF0FFFF, 0x0800000000, namedReg⟩,
  ⟨"WRREG", 0xFFFFF0FF00, 0x0900000000, namedReg⟩,
  ⟨"SETBITS", 0xFFFFF0FF00, 0x0A00000000, bitReg⟩,
  ⟨"CLRBITS", 0xFFFFF0FF00, 0x0B00000000, bitReg⟩,
  ⟨"USEINT", 0xFFFFFFFF00, 0x1000000000, anyReg⟩,
  ⟨"NOUSEINT", 0xFFFFFFFF00, 0x1100000000, anyReg⟩,
  ⟨"ATTACHINT", 0xFFFFFFFFFF, 0x1200000000, anyReg⟩,
  ⟨"DETACHINT", 0xFFFFFFFFFF, 0x1300000000, anyReg⟩]

/-- The word is of the row: mask, pattern and the extra condition on `reg = w[19:16]` (R66). -/
def OpcodeRow.admits (row : OpcodeRow) (w : CmdWord) : Bool :=
  w &&& row.mask == row.pattern && row.regs.contains (w.extractLsb' 16 4)

/-- The row of the opcode table a command stands in. -/
def Instr.mnemonic : Instr → String
  | .beginCmd => "BEGIN"
  | .endCmd => "END"
  | .setMode _ => "SETMODE"
  | .xfer8 _ => "XFER8"
  | .xfer16 _ => "XFER16"
  | .xferBuf _ _ => "XFERBUF"
  | .rdReg _ => "RDREG"
  | .wrReg _ _ => "WRREG"
  | .setBits _ _ => "SETBITS"
  | .clrBits _ _ => "CLRBITS"
  | .useInt _ => "USEINT"
  | .noUseInt _ => "NOUSEINT"
  | .attachInt => "ATTACHINT"
  | .detachInt => "DETACHINT"

end Sys2Proof
end

