-- ==== Sys2Proof/Machine/State.lean ====
section
/-! DEFINITION. The state of the machine (spec/10_state.md R10 to R37), the names its steps stop under, and the state
after reset (R37, spec/70_reset_and_hazards.md R150). -/

namespace Sys2Proof.Machine

open Sys2Proof.Config

/-- The phase of the byte clocking sequence (R31). -/
inductive Phase where
  | idle | clocking | done
  deriving DecidableEq, Repr

/-- Which interrupts a bus transaction would have to mask (R28). -/
inductive InterruptMode where
  | none | lines | all
  deriving DecidableEq, Repr

/-- The events of the history (R33). -/
inductive Event where
  | regW (r : Reg) (v : Byte)
  | regR (r : Reg) (v : Byte)
  | memR (addr : Addr) (v : Byte)
  | memW (addr : Addr) (v : Byte)
  /-- New clock level, data-out latch after the strobe, sampled data-in level (`none` at a setup edge). -/
  | edge (sck : Bool) (dout : Bool) (din : Option Bool)
  | critEnter (saved : Bool)
  | critExit (restored : Bool)
  | preempt
  | ret (cp : Nat) (v : Word)
  deriving DecidableEq, Repr

/-- The micro-operations of `ClockByte()` (spec/41_transfer.md R83): line 1, line 2, line 3 (with line 5 when it reads
the flag set), line 4, line 6. -/
inductive ByteLine where
  | clear | enter | poll | strobe | exit
  deriving DecidableEq, Repr

/-- The micro-operation index of R31: which micro-operation of the current command's pseudocode comes next. -/
inductive Point where
  /-- No command in progress: the next micro-operation is the first of the command at `CP`. -/
  | idle
  /-- Numbered line `n` of the command's pseudocode; a lettered line `2a`, `2b`, ... is 21, 22, ... -/
  | line (n : Nat)
  /-- Inside the `ClockByte()` that numbered line `n` calls. -/
  | clock (n : Nat) (l : ByteLine)
  deriving DecidableEq, Repr

/-- The local variables of the command in progress (R31, R86, R87, R89). They live only while it runs. -/
structure Locals where
  out : Byte
  inp : Byte
  nxt : Byte
  i : BitVec 16
  hi : Byte
  lo : Byte
  v : Byte
  deriving DecidableEq, Repr

/-- The locals while no command is in progress: the spec gives them no value then and no rule reads them (log entry 7,
DESIGN CHOICE, safe). -/
def Locals.cleared : Locals where
  out := 0
  inp := 0
  nxt := 0
  i := 0
  hi := 0
  lo := 0
  v := 0

/-- Why a step stops with a fault. None of these is a hardware event: the engine raises no exception (R130). -/
inductive Fault where
  /-- Raised by `MemRead` for a byte that holds no value (R44, U10): the fault of the model the spec asks for. Safe. -/
  | memNoValue (addr : Addr)
  /-- Raised by `step` when the run is over (R156). Safe: the model says nothing of what follows (log entry 5). -/
  | endOfRun
  /-- Raised by `step` when `CP` lies past the end of the command list, or at its end with a command in progress; no run
  from reset gets there. Safe. -/
  | noCommand
  /-- Raised by a meaning whose micro-operation index names no line of its pseudocode, or by `CritExit` with no section
  open; no run from reset gets there. Safe. -/
  | strayPoint
  deriving DecidableEq, Repr

/-- Why a step is refused: the refusals of R61 and R62, each safe (the model gives no meaning where the spec gives
none). -/
inductive Refusal where
  /-- Raised only by an arm of `exec` for a command that has no meaning yet. Safe. -/
  | notModelled (mnemonic : String)
  /-- Raised by `step` for a word that decodes to no command, and by a bit-set or bit-clear of `STAT` or `DATA`, which
  has no encoding (R58, R61). Safe. -/
  | invalidCommand
  /-- Raised by the transfer commands in the HWSPI variant (R85). Safe. -/
  | noDataPathInSource
  /-- Raised by a transfer of at least one byte while `CONFIGURED` is false (R85). Safe. -/
  | notConfigured
  /-- Raised by `XFERBUF` for a buffer that wraps past the top of `MEM` (R44). Safe. -/
  | bufferWraps
  /-- Raised by `SETMODE`, `ATTACHINT` and `DETACHINT` in the HWSPI variant (R73, R123, R124). Safe. -/
  | noSemanticsInSource
  /-- Raised by `USEINT`, `NOUSEINT`, `ATTACHINT` and `DETACHINT` in the USI variant (R113). Safe. -/
  | notInVariant
  /-- Raised by an access to a register of the other variant (R104). Safe. -/
  | noSuchRegister
  /-- Raised by a strobe while `CLKCFG` is false (R82). Safe. -/
  | clockNotConfigured
  /-- Raised by a `PORT` access that changes the clock pin while `CTRL.CS1 = 1` (R106). Safe. -/
  | manualClockEdge
  /-- Raised by `BEGIN` in the HWSPI variant with the reference count at 255 (R115). Safe. -/
  | refcountSaturated
  deriving DecidableEq, Repr

/-- The state of the machine. `params` and `cmds` are the parameters of the run (R36), written by no step; `wireDraws`,
`statDraws` and `yields` are the model's own counters for the free values of `Config` (log entry 2). -/
structure State where
  /-- The open parameters of R5. -/
  params : Params
  /-- The command list (R30, R40). -/
  cmds : List CmdWord
  /-- `CP`, the command pointer (R30). -/
  cp : Nat
  /-- `CTRL[7:1]`; bit 0 is a strobe and no state (R11, R16). -/
  ctrl : BitVec 7
  /-- The overflow flag (R18). -/
  ovf : Bool
  /-- `CNT`, the edge counter (R19). -/
  cnt : BitVec 4
  /-- `DR`, the shift register (R21). -/
  dr : Byte
  /-- `DOL`, the data-out latch (R22). -/
  dol : Bool
  /-- `DDR` (R23). -/
  ddr : Byte
  /-- `PORT` (R24). -/
  port : Byte
  /-- `GIE`, bit 7 of `SREG` (R26). -/
  gie : Bool
  /-- `HCTRL` (R27). -/
  hctrl : Byte
  /-- `DriverState.dataMode` (R28). -/
  dataMode : DataMode
  /-- `DriverState.initialized`, the reference count (R28, R115). -/
  initialized : BitVec 8
  /-- `DriverState.interruptMode` (R28). -/
  interruptMode : InterruptMode
  /-- `DriverState.interruptMask` (R28). -/
  interruptMask : Byte
  /-- `phase` (R31). -/
  phase : Phase
  /-- The micro-operation index (R31). -/
  point : Point
  /-- The local variables of the command in progress (R31). -/
  locals : Locals
  /-- The saved interrupt-enable value of an open critical section (R31, R35, R137). -/
  saved : Option Bool
  /-- `RET`; it holds no value until a command writes it (R32, R37). -/
  ret : Option Word
  /-- The event history, oldest first (R33). -/
  history : List Event
  /-- `MEM`: the bytes that hold a value, by strictly rising address (R34). -/
  mem : List Host.Cell
  /-- How many data-in levels have been drawn. The model's own. -/
  wireDraws : Nat
  /-- How many times `STAT` bits 7, 5, 4 have been drawn. The model's own. -/
  statDraws : Nat
  /-- How many times the interrupt agent has been asked. The model's own. -/
  yields : Nat
  deriving DecidableEq, Repr

/-- The reset state of a build with the given parameters, command list and launch memory (R37, R150, R152). -/
def State.resetWith (p : Params) (cmds : List CmdWord) (mem : List Host.Cell) : State where
  params := p
  cmds := cmds
  cp := 0
  ctrl := 0
  ovf := false
  cnt := 0
  dr := 0
  dol := false
  ddr := 0
  port := 0
  gie := false
  hctrl := 0
  dataMode := .mode0
  initialized := 0
  interruptMode := .none
  interruptMask := 0
  phase := .idle
  point := .idle
  locals := Locals.cleared
  saved := none
  ret := none
  history := []
  mem := mem
  wireDraws := 0
  statDraws := 0
  yields := 0

/-- The machine right after reset (R37): the parameters of `Params.default`, no command loaded, no byte of memory with
a value (log entries 1 and 5). -/
def State.reset : State := State.resetWith Params.default [] []

end Sys2Proof.Machine
end

