-- ==== Sys2Proof/Machine/Flags.lean ====
section
/-! DEFINITION. The bits of the registers by name, the edge counter and its overflow flag, and the predicates on
configuration bits (spec/10_state.md R11 to R29). -/

namespace Sys2Proof.Machine

open Sys2Proof.Config

/-- `BIT(n)` (R6). -/
def bitMask (n : Fin 8) : Byte := 1#8 <<< n.val

/-- `v[n]` (R6). -/
def bitOf (v : Byte) (n : Fin 8) : Bool := v.getLsbD n.val

/-- `CTRL` as a byte: the stored bits and the strobe bit, which reads 0 (R11, R100). -/
def State.ctrlByte (s : State) : Byte := s.ctrl ++ 0#1

/-- `CTRL.WM1` (R11, R13). -/
def State.wm1 (s : State) : Bool := s.ctrlByte.getLsbD 5
/-- `CTRL.WM0` (R11, R13). -/
def State.wm0 (s : State) : Bool := s.ctrlByte.getLsbD 4
/-- `CTRL.CS1` (R11, R14). -/
def State.cs1 (s : State) : Bool := s.ctrlByte.getLsbD 3
/-- `CTRL.CS0` (R11, R15). -/
def State.cs0 (s : State) : Bool := s.ctrlByte.getLsbD 2
/-- `CTRL.CLK` (R11, R14). -/
def State.clk (s : State) : Bool := s.ctrlByte.getLsbD 1

/-- The level of the clock generator's output, `PORT[PIN_SCK]` (R24). -/
def State.sck (s : State) : Bool := bitOf s.port s.params.pinSck

/-- `HCTRL.SPE` (R27). -/
def State.spe (s : State) : Bool := s.hctrl.getLsbD 6

/-- `CLKCFG` (R29): a single strobe is defined. -/
def State.clkCfg (s : State) : Bool := s.cs1 && s.clk && bitOf s.ddr s.params.pinSck

/-- `CONFIGURED` (R29): the transfers are defined. -/
def State.configured (s : State) : Bool :=
  !s.wm1 && s.wm0 && s.cs1 && s.clk &&
  bitOf s.ddr s.params.pinSck && bitOf s.ddr s.params.pinDo && !bitOf s.ddr s.params.pinDi

/-- The data-out line is driven by the latch (R25). -/
def State.doDriven (s : State) : Bool := !s.wm1 && s.wm0 && bitOf s.ddr s.params.pinDo

/-- `SCK_line` (R25): the clock pin's level where the engine drives it. -/
def State.sckLine (s : State) : Option Bool := if bitOf s.ddr s.params.pinSck then some s.sck else none

/-- `DO_line` (R25): the data-out latch where it drives the pin. -/
def State.doLine (s : State) : Option Bool := if s.doDriven then some s.dol else none

/-- `SS_line` (R25): the select pin's level where the engine drives it. -/
def State.ssLine (s : State) : Option Bool :=
  if bitOf s.ddr s.params.pinSs then some (bitOf s.port s.params.pinSs) else none

/-- The slave is selected: the select line is driven low (R25, R110). R25 leaves open whether a line that the engine does
not drive selects; that it does not is the model's choice (log entry 13, DESIGN CHOICE, unsafe). No step reads this. -/
def State.selected (s : State) : Bool := s.ssLine == some false

/-- The test of `CTRL.CS1` in R106; it is false in the HWSPI variant, which has no `CTRL` (R113). -/
def State.clockOwned (s : State) : Bool := s.params.variant == .usi && s.cs1

/-- The edge counter counts one strobe and sets the overflow flag when it wraps (R19; line 2 of R80). -/
def State.countStrobe (s : State) : State :=
  if s.params.hwFaultNoOverflow then s
  else { s with cnt := s.cnt + 1, ovf := s.ovf || s.cnt == 15#4 }

/-- What a write of `v` to `STAT` does to the flag and the counter (R17, R101). -/
def State.writeStat (v : Byte) (s : State) : State :=
  { s with ovf := s.ovf && !v.getLsbD 6, cnt := v.extractLsb' 0 4 }

/-- The latch invariant, re-established (R22): `DOL` follows `DR[7]` while it is transparent. The latch belongs to the
USI peripheral, so nothing happens in the HWSPI variant (log entry 8, DEDUCED). -/
def State.relatch (s : State) : State :=
  match s.params.variant with
  | .usi => if s.sck = s.cs0 then { s with dol := s.dr.getLsbD 7 } else s
  | .hwspi => s

/-- A register exists in the build's variant (R10, R104). -/
def regExists (v : Variant) : Reg → Bool
  | .ctrl | .stat | .data => v == .usi
  | .ddr | .port | .sreg => true
  | .hctrl => v == .hwspi

end Sys2Proof.Machine
end

