-- ==== Sys2Proof/Machine/Ops.lean ====
section
/-! DEFINITION. The operations every command is made of: events, memory, the critical section, the interrupt agent, the
sequencer's bookkeeping (spec/10_state.md R30 to R34; spec/20_memory.md R41, R44; spec/60_exceptions.md R134, R137,
R138). The engine raises no exception (R130), so there is none to take here; what an interrupt does is `passYield`. -/

namespace Sys2Proof.Machine

open Sys2Proof.Config

/-- What a step or a micro-operation answers. -/
abbrev Result := Host.Outcome State Fault Refusal

/-- Go on with `f` where `o` answers a next state. -/
def andThen (o : Result) (f : State → Result) : Result :=
  match o with
  | .next s => f s
  | .fault r => .fault r
  | .refused r => .refused r

/-- `emit(e)` (R33). -/
def State.emit (e : Event) (s : State) : State := { s with history := s.history ++ [e] }

/-- The next micro-operation is the one at `p` (R31). -/
def State.goto (p : Point) (s : State) : State := { s with point := p }

/-- The clocking sequence changes phase (R31). -/
def State.setPhase (p : Phase) (s : State) : State := { s with phase := p }

/-- The command in progress sets its locals (R31). -/
def State.setLocals (l : Locals) (s : State) : State := { s with locals := l }

/-- The command completes: `CP <- CP + 1` (R30, R70), and its locals are gone (R31). -/
def State.complete (s : State) : State :=
  { s with cp := s.cp + 1, point := .idle, locals := Locals.cleared }

/-- `RET <- v; emit Ret(CP, RET)` (R32). -/
def State.setRet (v : Word) (s : State) : State := { s with ret := some v }.emit (.ret s.cp v)

/-- The value of the byte at `a`, if it holds one (R34). -/
def memGet (m : List Host.Cell) (a : Nat) : Option Byte :=
  match m with
  | [] => none
  | (k, v) :: rest => if k = a then some v else memGet rest a

/-- The memory with the byte at `a` holding `v`; the list stays sorted by address. -/
def memSet (m : List Host.Cell) (a : Nat) (v : Byte) : List Host.Cell :=
  match m with
  | [] => [(a, v)]
  | (k, u) :: rest =>
    if a < k then (a, v) :: (k, u) :: rest
    else if a = k then (a, v) :: rest
    else (k, u) :: memSet rest a v

/-- The canonical form from `lo` on: strictly rising addresses, all below `2^16` (R40). An unlisted byte holds no value
(R34), so no entry can equal what an unlisted address reads as. -/
def memWfFrom (lo : Nat) : List Host.Cell → Bool
  | [] => true
  | (k, _) :: rest => decide (lo ≤ k) && decide (k < 2 ^ 16) && memWfFrom (k + 1) rest

/-- The canonical form of `MEM`. -/
def memWf (m : List Host.Cell) : Bool := memWfFrom 0 m

/-- `MemRead(a, 1)` (R41), with what follows; a fault of the model where the byte holds no value (R44). -/
def memRead (a : Addr) (k : Byte → State → Result) (s : State) : Result :=
  match memGet s.mem a.toNat with
  | some v => k v (s.emit (.memR a v))
  | none => .fault (.memNoValue a)

/-- `MemWrite(a, 1, v)` (R41). -/
def State.memWrite (a : Addr) (v : Byte) (s : State) : State :=
  { s with mem := memSet s.mem a.toNat v }.emit (.memW a v)

/-- `CritEnter()` (R137): save the flag, clear it. -/
def State.critEnter (s : State) : State :=
  { s with saved := some s.gie, gie := false }.emit (.critEnter s.gie)

/-- `CritExit(saved)` (R138): restore what the section's entry saved. -/
def critExit (s : State) : Result :=
  match s.saved with
  | some g => .next ({ s with saved := none, gie := g }.emit (.critExit g))
  | none => .fault .strayPoint

/-- A `yield` (R6, R134): where interrupts are enabled and no critical section is open, the interrupt agent takes as many
steps as it likes; each appends `Preempt` and changes nothing else. -/
def State.passYield (s : State) : State :=
  if s.gie && s.saved.isNone then
    { s with history := s.history ++ List.replicate (preempts s.yields) .preempt, yields := s.yields + 1 }
  else s

/-- The micro-operations of the command in progress one after another, `micro` being one of them (R7), with a `yield`
between any two, until the command completes; at most `n` of them, after which the command is left in progress. This is
what the steps of a command come to (log entry 3); one step is one `micro`. -/
def runCommand (n : Nat) (micro : State → Result) (s : State) : Result :=
  match n with
  | 0 => .next s
  | n + 1 => andThen (micro s) fun t =>
      if t.point = .idle ∨ n = 0 then .next t
      else runCommand n micro t.passYield

/-- A command that is one micro-operation: it can only be at its start. -/
def single (f : State → Result) (s : State) : Result :=
  match s.point with
  | .idle => andThen (f s) fun t => .next t.complete
  | .line _ | .clock _ _ => .fault .strayPoint

/-- The run is over (R156). -/
def State.runOver (s : State) : Bool := s.cp == s.cmds.length && s.point == .idle

/-- The command word at `CP` (R30). -/
def State.fetch (s : State) : Option CmdWord := s.cmds[s.cp]?

/-- A launch state whose command at `CP` is `w`, none in progress: the command list is given from outside (R30). Where
the list is too short it is filled up with zero words, which lie before `CP` and never run. -/
def State.placeCommand (s : State) (w : CmdWord) : State :=
  { s with
    cmds := s.cmds.take s.cp ++ List.replicate (s.cp - s.cmds.length) 0 ++ w :: s.cmds.drop (s.cp + 1)
    point := .idle }

end Sys2Proof.Machine
end

