-- ==== Sys2Proof/Machine/Strobe.lean ====
section
/-! DEFINITION. The data-in line and the clock-toggle strobe (spec/10_state.md R25; spec/41_transfer.md R80, R82). -/

namespace Sys2Proof.Machine

open Sys2Proof.Config

/-- `DI_level` at a sampling edge (R25): the data-out line where the two lines are wired together and the latch drives
it; otherwise a draw, which the counter `wireDraws` numbers. -/
def State.diLevel (s : State) : Bool :=
  match s.params.wiring with
  | .loopback => s.doLine.getD (wireLevel s.wireDraws)
  | .slave => wireLevel s.wireDraws

/-- The data-in level has been taken; where it was a draw, the next draw is another one (R25). -/
def State.passDraw (s : State) : State :=
  match s.params.wiring with
  | .loopback => if s.doDriven then s else { s with wireDraws := s.wireDraws + 1 }
  | .slave => { s with wireDraws := s.wireDraws + 1 }

/-- Line 1 of R80: the clock line toggles. -/
def State.toggleSck (s : State) : State := { s with port := s.port ^^^ bitMask s.params.pinSck }

/-- A sampling edge (line 3 of R80): the shift register shifts left and takes the data-in level; the latch keeps its
bit. -/
def State.sampleEdge (s : State) : State :=
  { s with dr := s.dr.extractLsb' 0 7 ++ BitVec.ofBool s.diLevel }.passDraw.emit (.edge s.sck s.dol (some s.diLevel))

/-- A setup edge (line 3 of R80): the latch takes the shift register's top bit. -/
def State.setupEdge (s : State) : State :=
  { s with dol := s.dr.getLsbD 7 }.emit (.edge s.sck (s.dr.getLsbD 7) none)

/-- The edge that the clock line's new level makes: sampling where it differs from `CTRL.CS0` (R80, R81). -/
def State.edge (s : State) : State := if s.sck = s.cs0 then s.setupEdge else s.sampleEdge

/-- `Strobe()` where it is defined (R80). -/
def State.strobe (s : State) : State := s.toggleSck.countStrobe.edge

/-- `Strobe()`; refused while `CLKCFG` is false (R82). -/
def strobeOrRefuse (s : State) : Result :=
  if s.clkCfg then .next s.strobe else .refused .clockNotConfigured

end Sys2Proof.Machine
end

