-- ==== Sys2Proof/Machine/Operands.lean ====
section
/-! DEFINITION. The register operand: reading and writing a register with its side effects
(spec/42_register_access.md R100, R101, R104 to R108; spec/20_memory.md R46). -/

namespace Sys2Proof.Machine

open Sys2Proof.Config

/-- The byte a read of `STAT` returns: the flag, the counter and three drawn bits (R17, R20, R100). -/
def statByte (drawn : BitVec 3) (ovf : Bool) (cnt : BitVec 4) : Byte :=
  drawn.extractLsb' 2 1 ++ BitVec.ofBool ovf ++ drawn.extractLsb' 0 2 ++ cnt

/-- The value `RegRead(r)` returns (R100). -/
def State.regValue (s : State) : Reg → Byte
  | .ctrl => s.ctrlByte
  | .stat => statByte (statBits s.statDraws) s.ovf s.cnt
  | .data => s.dr
  | .ddr => s.ddr
  | .port => s.port
  | .sreg => BitVec.ofBool s.gie ++ 0#7
  | .hctrl => s.hctrl

/-- What a read leaves behind: its event, and for `STAT` that the next read's drawn bits are new ones (R20, R46). -/
def State.noteRead (r : Reg) (s : State) : State :=
  match r with
  | .stat => { s with statDraws := s.statDraws + 1 }.emit (.regR .stat (s.regValue .stat))
  | .ctrl | .data | .ddr | .port | .sreg | .hctrl => s.emit (.regR r (s.regValue r))

/-- `RegRead(r)` (R100), with what follows; refused for a register of the other variant (R104). -/
def regRead (r : Reg) (k : Byte → State → Result) (s : State) : Result :=
  if regExists s.params.variant r then k (s.regValue r) (s.noteRead r) else .refused .noSuchRegister

/-- A write of `CTRL` (R101, R105): the stored bits, the latch, then the strobe if bit 0 is 1. -/
def writeCtrl (v : Byte) (s : State) : Result :=
  if v.getLsbD 0 then strobeOrRefuse { s with ctrl := v.extractLsb' 1 7 }.relatch
  else .next { s with ctrl := v.extractLsb' 1 7 }.relatch

/-- A write of `PORT` (R101, R106). -/
def writePort (v : Byte) (s : State) : Result :=
  if s.clockOwned && (bitOf v s.params.pinSck != s.sck) then .refused .manualClockEdge
  else .next { s with port := v }.relatch

/-- What a write of `v` does to register `r` (R101). -/
def writeEffect (r : Reg) (v : Byte) (s : State) : Result :=
  match r with
  | .ctrl => writeCtrl v s
  | .stat => .next (s.writeStat v)
  | .data => .next { s with dr := v }.relatch
  | .ddr => .next { s with ddr := v }
  | .port => writePort v s
  | .sreg => .next { s with gie := v.getLsbD 7 }
  | .hctrl => .next { s with hctrl := v }

/-- `RegWrite(r, v)` (R101); refused for a register of the other variant (R104). -/
def regWrite (r : Reg) (v : Byte) (s : State) : Result :=
  if regExists s.params.variant r then writeEffect r v (s.emit (.regW r v)) else .refused .noSuchRegister

/-- `SetBits(r, m)`, one micro-operation (R107). -/
def setBits (r : Reg) (m : Byte) (s : State) : Result := regWrite r (s.regValue r ||| m) s

/-- `ClrBits(r, m)`, one micro-operation (R108). -/
def clrBits (r : Reg) (m : Byte) (s : State) : Result := regWrite r (s.regValue r &&& ~~~m) s

end Sys2Proof.Machine
end

