-- ==== Sys2Proof/Machine/InterruptLines.lean ====
section
/-! DEFINITION. The interrupt-line bookkeeping of the hardware-SPI variant: `USEINT`, `NOUSEINT`, and the two commands
the source names without a meaning (spec/43_hwspi_variant.md R113, R119 to R124). -/

namespace Sys2Proof.Machine

open Sys2Proof.Config

/-- `INT_MASK_TABLE(n)` (R5): a mask with exactly one bit set, or undefined. -/
def intMask (p : Params) (n : Byte) : Option Byte := (p.intMaskTable.lookup n).map bitMask

/-- Line 2 of `USEINT` (R119). -/
def State.registerLine (n : Byte) (s : State) : State :=
  match intMask s.params n with
  | none => { s with interruptMode := .all }
  | some m =>
    { s with
      interruptMask := s.interruptMask ||| m
      interruptMode := match s.interruptMode with
        | .none => .lines
        | .lines => .lines
        | .all => .all }

/-- What `NOUSEINT` leaves of the mask (R121). -/
def State.maskWithout (n : Byte) (s : State) : Byte :=
  match intMask s.params n with
  | none => s.interruptMask
  | some m => s.interruptMask &&& ~~~m

/-- Line 2 of `NOUSEINT` (R121); mode `ALL` absorbs it (R120). -/
def State.deregisterLine (n : Byte) (s : State) : State :=
  match s.interruptMode with
  | .all => s
  | .none | .lines =>
    { s with
      interruptMask := s.maskWithout n
      interruptMode := if s.maskWithout n = 0 then .none else s.interruptMode }

/-- The micro-operations of a command whose body `f` is one line inside a critical section (R119, R121, R125). -/
def microGuarded (f : State → State) (s : State) : Result :=
  match s.point with
  | .idle => .next (s.critEnter.goto (.line 2))
  | .line 2 => .next ((f s).goto (.line 3))
  | .line 3 => andThen (critExit s) fun t => .next t.complete
  | .line _ | .clock _ _ => .fault .strayPoint

/-- One micro-operation of `USEINT n` (R113, R119). -/
def microUseInt (n : Byte) (s : State) : Result :=
  match s.params.variant with
  | .usi => .refused .notInVariant
  | .hwspi => microGuarded (State.registerLine n) s

/-- `USEINT n`: three micro-operations (R119). -/
def execUseInt (n : Byte) (s : State) : Result := runCommand 3 (microUseInt n) s

/-- One micro-operation of `NOUSEINT n` (R113, R121). -/
def microNoUseInt (n : Byte) (s : State) : Result :=
  match s.params.variant with
  | .usi => .refused .notInVariant
  | .hwspi => microGuarded (State.deregisterLine n) s

/-- `NOUSEINT n`: three micro-operations (R121). -/
def execNoUseInt (n : Byte) (s : State) : Result := runCommand 3 (microNoUseInt n) s

/-- The answer to a command the source lists and does not describe (R123, R124). -/
def undescribed (s : State) : Result :=
  match s.params.variant with
  | .usi => .refused .notInVariant
  | .hwspi => .refused .noSemanticsInSource

/-- `ATTACHINT` (R113, R123). -/
def execAttachInt (s : State) : Result := undescribed s

/-- `DETACHINT` (R113, R124). -/
def execDetachInt (s : State) : Result := undescribed s

end Sys2Proof.Machine
end

