-- ==== Sys2Proof/Machine/HwSpiLifecycle.lean ====
section
/-! DEFINITION. `BEGIN` and `END` of the hardware-SPI variant: the reference-counted lifecycle and the slave-select
setup (spec/43_hwspi_variant.md R114 to R118). Each is one critical section from its first micro-operation to its
last, so no interrupt falls inside. -/

namespace Sys2Proof.Machine

/-- The micro-operations of `BEGIN` in the HWSPI variant: line 1, lines 2a to 2f on the transition from 0 to 1
references (21 to 26), line 3, line 4 (R114). -/
def microBeginHw (s : State) : Result :=
  match s.point with
  | .idle =>
    if s.initialized = 255 then .refused .refcountSaturated
    else .next (s.critEnter.goto (if s.initialized = 0 then .line 21 else .line 3))
  | .line 21 => andThen (setBits .port (bitMask s.params.pinSs) s) fun t => .next (t.goto (.line 22))
  | .line 22 => andThen (setBits .ddr (bitMask s.params.pinSs) s) fun t => .next (t.goto (.line 23))
  | .line 23 => andThen (setBits .hctrl 0x10 s) fun t => .next (t.goto (.line 24))
  | .line 24 => andThen (setBits .hctrl 0x40 s) fun t => .next (t.goto (.line 25))
  | .line 25 => andThen (setBits .ddr (bitMask s.params.pinSck) s) fun t => .next (t.goto (.line 26))
  | .line 26 => andThen (setBits .ddr (bitMask s.params.pinDo) s) fun t => .next (t.goto (.line 3))
  | .line 3 => .next ({ s with initialized := s.initialized + 1 }.goto (.line 4))
  | .line 4 => andThen (critExit s) fun t => .next t.complete
  | .line _ | .clock _ _ => .fault .strayPoint

/-- Line 2b's second half (R116): the mode state falls to `NONE` if the open parameter says so. -/
def State.resetModeOnPowerDown (s : State) : State :=
  if s.params.endResetsIntMode then { s with interruptMode := .none } else s

/-- The micro-operations of `END` in the HWSPI variant: line 1, line 2a (21), line 2b on the transition from 1 to 0
references (22), line 3 (R116). -/
def microEndHw (s : State) : Result :=
  match s.point with
  | .idle => .next (s.critEnter.goto (if s.initialized = 0 then .line 3 else .line 21))
  | .line 21 =>
    .next ({ s with initialized := s.initialized - 1 }.goto (if s.initialized = 1 then .line 22 else .line 3))
  | .line 22 => andThen (clrBits .hctrl 0x40 s) fun t => .next (t.resetModeOnPowerDown.goto (.line 3))
  | .line 3 => andThen (critExit s) fun t => .next t.complete
  | .line _ | .clock _ _ => .fault .strayPoint

end Sys2Proof.Machine
end

