-- ==== Sys2Proof/Machine/UsiLifecycle.lean ====
section
/-! DEFINITION. `BEGIN`, `SETMODE` and `END` as the software (USI) driver performs them (spec/40_lifecycle.md R71 to
R77). None of them opens a critical section. -/

namespace Sys2Proof.Machine

/-- The micro-operations of `BEGIN` in the USI variant, its lines 1 to 5 (R71). -/
def microBeginUsi (s : State) : Result :=
  match s.point with
  | .idle => andThen (clrBits .ctrl 0xE0 s) fun t => .next (t.goto (.line 2))
  | .line 2 => andThen (setBits .ctrl 0x1A s) fun t => .next (t.goto (.line 3))
  | .line 3 => andThen (setBits .ddr (bitMask s.params.pinSck) s) fun t => .next (t.goto (.line 4))
  | .line 4 => andThen (setBits .ddr (bitMask s.params.pinDo) s) fun t => .next (t.goto (.line 5))
  | .line 5 => andThen (clrBits .ddr (bitMask s.params.pinDi) s) fun t => .next t.complete
  | .line _ | .clock _ _ => .fault .strayPoint

/-- `END` in the USI variant (R75): the wire-mode bits are cleared, one micro-operation. -/
def microEndUsi (s : State) : Result := single (clrBits .ctrl 0x30) s

/-- `SETMODE mode` in the USI variant (R73, R74): `dataMode` and the clock-source bit, one micro-operation. -/
def setModeUsi (m : DataMode) (s : State) : Result :=
  single (fun t =>
    match m with
    | .mode1 => setBits .ctrl 0x04 { t with dataMode := m }
    | .mode0 | .mode2 | .mode3 => clrBits .ctrl 0x04 { t with dataMode := m }) s

end Sys2Proof.Machine
end

