-- ==== Sys2Proof/Machine/Lifecycle.lean ====
section
/-! DEFINITION. The lifecycle commands `BEGIN`, `END`, `SETMODE`: the build's variant selects the rule
(spec/30_encoding.md R60, R62). -/

namespace Sys2Proof.Machine

/-- One micro-operation of `BEGIN` (R71, R114). -/
def microBegin (s : State) : Result :=
  match s.params.variant with
  | .usi => microBeginUsi s
  | .hwspi => microBeginHw s

/-- `BEGIN`: five micro-operations in the USI variant (R71), at most nine in the HWSPI variant (R114). -/
def execBegin (s : State) : Result := runCommand 9 microBegin s

/-- One micro-operation of `END` (R75, R116). -/
def microEnd (s : State) : Result :=
  match s.params.variant with
  | .usi => microEndUsi s
  | .hwspi => microEndHw s

/-- `END`: one micro-operation in the USI variant (R75), at most four in the HWSPI variant (R116). -/
def execEnd (s : State) : Result := runCommand 4 microEnd s

/-- `SETMODE mode` (R73); the spec gives it no meaning in the HWSPI variant. -/
def execSetMode (m : DataMode) (s : State) : Result :=
  match s.params.variant with
  | .usi => setModeUsi m s
  | .hwspi => .refused .noSemanticsInSource

end Sys2Proof.Machine
end

