-- ==== Sys2Proof/Machine/RegisterAccess.lean ====
section
/-! DEFINITION. The register-surface commands `RDREG`, `WRREG`, `SETBITS`, `CLRBITS`
(spec/42_register_access.md R102, R103, R107, R108). Each is one atomic micro-operation (R109, R140). -/

namespace Sys2Proof.Machine

/-- `RDREG reg` (R102). -/
def execRdReg (r : Reg) (s : State) : Result :=
  single (regRead r fun v t => .next (t.setRet (v.setWidth 16))) s

/-- `WRREG reg, val` (R103). -/
def execWrReg (r : Reg) (v : Byte) (s : State) : Result := single (regWrite r v) s

/-- `SETBITS reg, mask` (R107); no command where `reg` is `STAT` or `DATA` (R58). -/
def execSetBits (r : Reg) (m : Byte) (s : State) : Result :=
  if r.bitAccessible then single (setBits r m) s else .refused .invalidCommand

/-- `CLRBITS reg, mask` (R108); no command where `reg` is `STAT` or `DATA` (R58). -/
def execClrBits (r : Reg) (m : Byte) (s : State) : Result :=
  if r.bitAccessible then single (clrBits r m) s else .refused .invalidCommand

end Sys2Proof.Machine
end

