-- ==== Sys2Proof/Machine/ByteClock.lean ====
section
/-! DEFINITION. `ClockByte()`, the polling sequence of one byte, and the preconditions of the transfer commands
(spec/41_transfer.md R83 to R85). There is no bound on the polling loop: where the overflow flag never sets, the
command never completes and every further step goes on polling and strobing (R84). -/

namespace Sys2Proof.Machine

/-- One micro-operation of the `ClockByte()` that numbered line `call` of a command calls (R83); after the last one the
command goes on at its line `ret`. -/
def clockByte (call ret : Nat) (l : ByteLine) (s : State) : Result :=
  match l with
  | .clear => andThen (regWrite .stat 0x40 s) fun t => .next (t.goto (.clock call .enter))
  | .enter => .next ((s.critEnter.setPhase .clocking).goto (.clock call .poll))
  | .poll =>
    -- the polled bit is bit 6 of the value read, which is the flag (`regValue_stat_flag` in Laws/Operands.lean)
    regRead .stat (fun _ t =>
      if s.ovf then .next ((t.setPhase .done).goto (.clock call .exit))
      else .next (t.goto (.clock call .strobe))) s
  | .strobe => andThen (setBits .ctrl 0x01 s) fun t => .next (t.goto (.clock call .poll))
  | .exit => andThen (critExit s) fun t => .next ((t.setPhase .idle).goto (.line ret))

/-- How many micro-operations `ClockByte()` takes when the flag sets at the sixteenth strobe: lines 1, 2 and 6, 17 polls
and 16 strobes (R83). -/
def clockByteMicros : Nat := 36

/-- What stops a transfer before its first micro-operation (R85), the variant first, then the state (R135). -/
def transferRefusal (s : State) : Option Refusal :=
  match s.params.variant with
  | .hwspi => some .noDataPathInSource
  | .usi => if s.configured then none else some .notConfigured

/-- Go on with `f` where the transfer is admitted (R85). -/
def admitTransfer (f : State → Result) (s : State) : Result :=
  match transferRefusal s with
  | some r => .refused r
  | none => f s

end Sys2Proof.Machine
end

