-- ==== Sys2Proof/Machine/Transfer.lean ====
section
/-! DEFINITION. The transfer commands `XFER8`, `XFER16`, `XFERBUF` (spec/41_transfer.md R86 to R91; spec/20_memory.md
R42, R44, R54). The line numbers are those of the rules' pseudocode. -/

namespace Sys2Proof.Machine

/-- The micro-operations of `XFER8` (R86). -/
def microXfer8 (v : Byte) (s : State) : Result :=
  match s.point with
  | .idle => admitTransfer (fun s => andThen (regWrite .data v s) fun t => .next (t.goto (.clock 2 .clear))) s
  | .clock 2 l => clockByte 2 3 l s
  | .line 3 => regRead .data (fun u t => .next ((t.setLocals { t.locals with v := u }).goto (.line 4))) s
  | .line 4 => .next (s.setRet (s.locals.v.setWidth 16)).complete
  | .line _ | .clock _ _ => .fault .strayPoint

/-- `XFER8 imm8` (R86): line 1, one byte, lines 3 and 4. -/
def execXfer8 (v : Byte) (s : State) : Result := runCommand (clockByteMicros + 3) (microXfer8 v) s

/-- The micro-operations of `XFER16` (R87): two bytes, the most significant first, each under its own critical section
(R88). -/
def microXfer16 (w : Word) (s : State) : Result :=
  match s.point with
  | .idle =>
    admitTransfer (fun s =>
      andThen (regWrite .data (w.extractLsb' 8 8) s) fun t => .next (t.goto (.clock 2 .clear))) s
  | .clock 2 l => clockByte 2 3 l s
  | .line 3 => regRead .data (fun u t => .next ((t.setLocals { t.locals with hi := u }).goto (.line 4))) s
  | .line 4 => andThen (regWrite .data (w.extractLsb' 0 8) s) fun t => .next (t.goto (.clock 5 .clear))
  | .clock 5 l => clockByte 5 6 l s
  | .line 6 => regRead .data (fun u t => .next ((t.setLocals { t.locals with lo := u }).goto (.line 7))) s
  | .line 7 => .next (s.setRet (s.locals.hi ++ s.locals.lo)).complete
  | .line _ | .clock _ _ => .fault .strayPoint

/-- `XFER16 imm16` (R87): lines 1, 3, 4, 6 and 7, and two bytes. -/
def execXfer16 (w : Word) (s : State) : Result := runCommand (2 * clockByteMicros + 5) (microXfer16 w) s

/-- The loop head of `XFERBUF` (line 5 of R89): the next byte is fetched while one is left after the current, else the
last byte is clocked. -/
def bufferHead (count : Word) (i : BitVec 16) : Point :=
  if i.toNat + 1 < count.toNat then .line 6 else .clock 12 .clear

/-- `XFERBUF`'s own admission after R85's: a buffer that wraps past the top of `MEM` is refused (R44). -/
def admitBuffer (addr : Addr) (count : Word) (f : State → Result) (s : State) : Result :=
  if addr.toNat + count.toNat ≤ 2 ^ 16 then f s else .refused .bufferWraps

/-- One micro-operation of `XFERBUF` with `count > 0` (R89). Its lines 1, 4, 5 and 11 only choose or count; each is
part of the micro-operation before it. -/
def microBuffer (addr : Addr) (count : Word) (s : State) : Result :=
  match s.point with
  | .idle =>
    admitTransfer (admitBuffer addr count
      (memRead addr fun v t => .next ((t.setLocals { t.locals with out := v }).goto (.line 3)))) s
  | .line 3 =>
    andThen (regWrite .data s.locals.out s) fun t =>
      .next ((t.setLocals { t.locals with i := 0 }).goto (bufferHead count 0))
  | .line 6 =>
    memRead (addr + s.locals.i + 1)
      (fun v t => .next ((t.setLocals { t.locals with nxt := v }).goto (.clock 7 .clear))) s
  | .clock 7 l => clockByte 7 8 l s
  | .line 8 => regRead .data (fun v t => .next ((t.setLocals { t.locals with inp := v }).goto (.line 9))) s
  | .line 9 => andThen (regWrite .data s.locals.nxt s) fun t => .next (t.goto (.line 10))
  | .line 10 =>
    .next (((s.memWrite (addr + s.locals.i) s.locals.inp).setLocals { s.locals with i := s.locals.i + 1 }).goto
      (bufferHead count (s.locals.i + 1)))
  | .clock 12 l => clockByte 12 13 l s
  | .line 13 => regRead .data (fun v t => .next ((t.setLocals { t.locals with inp := v }).goto (.line 14))) s
  | .line 14 => .next (s.memWrite (addr + (count - 1)) s.locals.inp).complete
  | .line _ | .clock _ _ => .fault .strayPoint

/-- `XFERBUF addr, count` with `count = 0` (R90): nothing at all, in every state of the USI variant (R85). -/
def emptyTransfer (s : State) : Result :=
  match s.params.variant with
  | .hwspi => .refused .noDataPathInSource
  | .usi => single .next s

/-- One micro-operation of `XFERBUF` (R89, R90). -/
def microXferBuf (addr : Addr) (count : Word) (s : State) : Result :=
  if count = 0 then emptyTransfer s else microBuffer addr count s

/-- How many micro-operations `XFERBUF` takes: 40 a byte, its `ClockByte()` and four accesses (R89); one, which only
advances `CP`, for `count = 0` (R90). -/
def xferBufMicros (count : Word) : Nat := if count = 0 then 1 else (clockByteMicros + 4) * count.toNat

/-- `XFERBUF addr, count` (R89, R90). -/
def execXferBuf (addr : Addr) (count : Word) (s : State) : Result :=
  runCommand (xferBufMicros count) (microXferBuf addr count) s

end Sys2Proof.Machine
end

