-- ==== Sys2Proof/Machine/Dispatch.lean ====
section
/-! DEFINITION. What one command does: one arm per row of spec/opcode_table.json. -/

namespace Sys2Proof.Machine

def exec (i : Instr) (s : State) : Host.Outcome State Fault Refusal :=
  match i with
  | .beginCmd => Sys2Proof.Machine.execBegin s
  | .endCmd => Sys2Proof.Machine.execEnd s
  | .setMode mode => Sys2Proof.Machine.execSetMode mode s
  | .xfer8 imm8 => Sys2Proof.Machine.execXfer8 imm8 s
  | .xfer16 imm16 => Sys2Proof.Machine.execXfer16 imm16 s
  | .xferBuf addr count => Sys2Proof.Machine.execXferBuf addr count s
  | .rdReg reg => Sys2Proof.Machine.execRdReg reg s
  | .wrReg reg val => Sys2Proof.Machine.execWrReg reg val s
  | .setBits reg mask => Sys2Proof.Machine.execSetBits reg mask s
  | .clrBits reg mask => Sys2Proof.Machine.execClrBits reg mask s
  | .useInt n => Sys2Proof.Machine.execUseInt n s
  | .noUseInt n => Sys2Proof.Machine.execNoUseInt n s
  | .attachInt => Sys2Proof.Machine.execAttachInt s
  | .detachInt => Sys2Proof.Machine.execDetachInt s

end Sys2Proof.Machine
end

