-- ==== Sys2Proof/Machine/Sequencer.lean ====
section
/-! DEFINITION. The sequencer's own step: one micro-operation of a command (spec/00_scope.md R7, R8). What all of a
command's micro-operations come to is `exec`. -/

namespace Sys2Proof.Machine

/-- The micro-operation of the command `i` that comes next (R8, R31). A command that is one micro-operation (R109, R140)
is that micro-operation. -/
def microOp (i : Instr) (s : State) : Result :=
  match i with
  | .beginCmd => microBegin s
  | .endCmd => microEnd s
  | .xfer8 v => microXfer8 v s
  | .xfer16 w => microXfer16 w s
  | .xferBuf addr count => microXferBuf addr count s
  | .useInt n => microUseInt n s
  | .noUseInt n => microNoUseInt n s
  | .setMode m => exec (.setMode m) s
  | .rdReg r => exec (.rdReg r) s
  | .wrReg r v => exec (.wrReg r v) s
  | .setBits r m => exec (.setBits r m) s
  | .clrBits r m => exec (.clrBits r m) s
  | .attachInt => exec .attachInt s
  | .detachInt => exec .detachInt s

/-- How many micro-operations a command takes at most where the hardware works (R71, R83 to R89, R114 to R121). -/
def microCount (i : Instr) : Nat :=
  match i with
  | .beginCmd => 9
  | .endCmd => 4
  | .xfer8 _ => clockByteMicros + 3
  | .xfer16 _ => 2 * clockByteMicros + 5
  | .xferBuf _ count => xferBufMicros count
  | .useInt _ | .noUseInt _ => 3
  | .setMode _ | .rdReg _ | .wrReg _ _ | .setBits _ _ | .clrBits _ _ | .attachInt | .detachInt => 1

end Sys2Proof.Machine
end

