-- ==== Sys2Proof/Machine/Step.lean ====
section
/-! DEFINITION. One step of the machine: the interrupt agent at the `yield` before a micro-operation, then one
micro-operation of the command at `CP` (spec/00_scope.md R7, R8; spec/10_state.md R30, R31; spec/60_exceptions.md R134;
spec/70_reset_and_hazards.md R151, R156; log entries 3 to 5). -/

namespace Sys2Proof.Machine

/-- One step: the run is over, or the word at `CP` is no command (R61), or one micro-operation of its command (R8). -/
def step (s : State) : Host.Outcome State Fault Refusal :=
  if s.runOver then .fault .endOfRun
  else
    match s.fetch with
    | none => .fault .noCommand
    | some w =>
      match Sys2Proof.decode w with
      | .error _ => .refused .invalidCommand
      | .ok i => microOp i s.passYield

/-- The state whose next steps run the word `w` of `nbits` bits (spec/opcode_table.json's numbering): the command list,
which the machine is given from outside (R30), holds it at `CP`. -/
def State.withFetchWord (s : State) (nbits w : Nat) : State :=
  s.placeCommand (BitVec.ofNat 40 (w % 2 ^ nbits))

end Sys2Proof.Machine
end

