-- ==== Sys2Proof/Safety.lean ====
section
/-! DEFINITION. The terms the claims about the machine use: launch premises, the invariant of its states, what an event
history shows, and the byte a transfer brings in. None of these is part of a step. -/

namespace Sys2Proof.Machine

open Sys2Proof.Config

/-- No command in progress, no critical section open, phase `IDLE`: launch premises of R152. -/
abbrev State.AtRest (s : State) : Prop := s.point = .idle ∧ s.saved = none ∧ s.phase = .idle

/-- The launch premises under which a transfer completes (R85, R152). -/
abbrev State.ReadyToTransfer (s : State) : Prop :=
  s.AtRest ∧ s.params.variant = .usi ∧ s.configured = true ∧ s.params.hwFaultNoOverflow = false

/-- The level of the data-out latch once its invariant is re-established, for a clock line at `sck`, a clock-source bit
`cs0` and a shift register `dr` (R22); the HWSPI variant has no latch. -/
def State.latched (s : State) (sck cs0 : Bool) (dr : Byte) : Bool :=
  match s.params.variant with
  | .usi => if sck = cs0 then dr.getLsbD 7 else s.dol
  | .hwspi => s.dol

/-- The latch invariant (R22). -/
abbrev State.LatchHolds (s : State) : Prop := s.params.variant = .usi → s.sck = s.cs0 → s.dol = s.dr.getLsbD 7

/-- A command that is complete in the state `s`: the given events appended, `CP` advanced, no locals (R30, R70). -/
def State.completed (s : State) (events : List Event) : State :=
  { s with history := s.history ++ events, cp := s.cp + 1, point := .idle, locals := Locals.cleared }

/-! ### Commands in progress -/

/-- The phase at a point of a command (R31). -/
def Point.phase : Point → Phase
  | .idle | .line _ | .clock _ .clear | .clock _ .enter => .idle
  | .clock _ .poll | .clock _ .strobe => .clocking
  | .clock _ .exit => .done

/-- A critical section is open at the point (R140): inside a byte's polling loop, and between the first and the last
micro-operation of the HWSPI commands. -/
def Point.inSection (v : Variant) : Point → Bool
  | .idle | .clock _ .clear | .clock _ .enter => false
  | .clock _ .poll | .clock _ .strobe | .clock _ .exit => true
  | .line _ => v == .hwspi

/-- The point lies inside the `ClockByte()` that line `n` calls. -/
def Point.inCall (n : Nat) : Point → Bool
  | .clock m _ => m == n
  | .idle | .line _ => false

end Sys2Proof.Machine

namespace Sys2Proof

open Machine Config

/-- The points between two micro-operations of a command, in the given variant. -/
def Instr.hasPoint (v : Variant) (i : Instr) (p : Point) : Bool :=
  match i with
  | .beginCmd =>
    match v with
    | .usi => [Point.line 2, .line 3, .line 4, .line 5].contains p
    | .hwspi =>
      [Point.line 21, .line 22, .line 23, .line 24, .line 25, .line 26, .line 3, .line 4].contains p
  | .endCmd =>
    match v with
    | .usi => false
    | .hwspi => [Point.line 21, .line 22, .line 3].contains p
  | .xfer8 _ => v == .usi && (p.inCall 2 || [Point.line 3, .line 4].contains p)
  | .xfer16 _ =>
    v == .usi && (p.inCall 2 || p.inCall 5 || [Point.line 3, .line 4, .line 6, .line 7].contains p)
  | .xferBuf _ _ =>
    v == .usi && (p.inCall 7 || p.inCall 12 ||
      [Point.line 3, .line 6, .line 8, .line 9, .line 10, .line 13, .line 14].contains p)
  | .useInt _ | .noUseInt _ => v == .hwspi && [Point.line 2, .line 3].contains p
  | .setMode _ | .rdReg _ | .wrReg _ _ | .setBits _ _ | .clrBits _ _ | .attachInt | .detachInt => false

end Sys2Proof

namespace Sys2Proof.Machine

open Config

/-- The loop body of `XFERBUF`, lines 6 to 11 (R89). -/
def Point.inLoop : Point → Bool
  | .clock 7 _ | .line 6 | .line 8 | .line 9 | .line 10 => true
  | .idle | .clock _ _ | .line _ => false

end Sys2Proof.Machine

namespace Sys2Proof

open Machine Config

/-- What holds while the command `i` is in progress: its points, and for a transfer the admission it passed (R85, R44)
and the bounds of its loop. -/
def Instr.inProgress (i : Instr) (s : State) : Bool :=
  i.hasPoint s.params.variant s.point &&
  match i with
  | .xfer8 _ | .xfer16 _ => s.configured
  | .xferBuf addr count =>
    s.configured && count != 0 && decide (addr.toNat + count.toNat ≤ 2 ^ 16) &&
    (!s.point.inLoop || decide (s.locals.i.toNat + 1 < count.toNat))
  | .beginCmd | .endCmd | .setMode _ | .rdReg _ | .wrReg _ _ | .setBits _ _ | .clrBits _ _ | .useInt _
  | .noUseInt _ | .attachInt | .detachInt => true

end Sys2Proof

namespace Sys2Proof.Machine

open Config

/-- A command in progress is the one at `CP`. -/
def State.progressFits (s : State) : Bool :=
  s.point == .idle ||
  match s.fetch with
  | none => false
  | some w =>
    match decode w with
    | .ok i => i.inProgress s
    | .error _ => false

/-- The invariant of the machine's states. -/
structure State.Inv (s : State) : Prop where
  /-- `MEM` is in its canonical form. -/
  memory : memWf s.mem = true
  /-- The data-out latch (R22). -/
  latch : s.LatchHolds
  /-- `CP` never passes the end of the command list (R30). -/
  pointer : s.cp ≤ s.cmds.length
  /-- A critical section is open exactly where R140 says. -/
  section_ : s.saved.isSome = s.point.inSection s.params.variant
  /-- Inside a critical section interrupts are off (R93, R137). -/
  masked : s.saved.isSome = true → s.gie = false
  /-- The phase follows the point (R31). -/
  phase : s.phase = s.point.phase
  /-- Locals live only while a command runs (R31). -/
  locals : s.point = .idle → s.locals = Locals.cleared
  /-- The command in progress is the one at `CP`, admitted and within its bounds. -/
  progress : s.progressFits = true

/-! ### The byte a transfer brings in -/

/-- The eight levels drawn from the `k`-th on, the first in bit 7 (R42, R86). -/
def answerByte (k : Nat) : Byte :=
  BitVec.ofBool (wireLevel k) ++ BitVec.ofBool (wireLevel (k + 1)) ++ BitVec.ofBool (wireLevel (k + 2)) ++
  BitVec.ofBool (wireLevel (k + 3)) ++ BitVec.ofBool (wireLevel (k + 4)) ++ BitVec.ofBool (wireLevel (k + 5)) ++
  BitVec.ofBool (wireLevel (k + 6)) ++ BitVec.ofBool (wireLevel (k + 7))

/-- The byte received while `b` is sent, when `n` bytes have been exchanged before it since the state `s` (R86, R92):
`b` itself in loopback, the slave's answer otherwise. -/
def State.received (s : State) (n : Nat) (b : Byte) : Byte :=
  match s.params.wiring with
  | .loopback => b
  | .slave => answerByte (s.wireDraws + 8 * n)

/-- How many data-in levels are drawn for `n` bytes (R25). -/
def State.drawnFor (s : State) (n : Nat) : Nat :=
  match s.params.wiring with
  | .loopback => 0
  | .slave => 8 * n

/-- The data-out latch after a byte `b` was sent and `r` received (R80, R81): the last strobe is a setup edge exactly
when the clock idles at `CS0`; otherwise the latch holds the last bit sent. -/
def State.latchAfter (s : State) (b r : Byte) : Bool := if s.sck = s.cs0 then r.getLsbD 7 else b.getLsbD 0

/-- The bits of a value, highest first. -/
def bitsMsbFirst {n : Nat} (v : BitVec n) : List Bool := (List.range n).map fun j => v.getLsbD (n - 1 - j)

/-- Every byte of a buffer holds a value (R44). -/
def bufferHolds (m : List Host.Cell) (addr : Addr) (count : Word) : Bool :=
  (List.range count.toNat).all fun k => (memGet m (addr.toNat + k)).isSome

/-! ### What an event history shows -/

/-- The history without the interrupt agent's events. -/
def withoutPreempts (h : List Event) : List Event := h.filter (· != .preempt)

/-- The clock edges of a history (R33). -/
def edgesOf (h : List Event) : List Event :=
  h.filter fun e => match e with
    | .edge _ _ _ => true
    | .regW _ _ | .regR _ _ | .memR _ _ | .memW _ _ | .critEnter _ | .critExit _ | .preempt | .ret _ _ => false

/-- The data-in levels taken at the sampling edges, in order. -/
def sampledLevels (h : List Event) : List Bool :=
  h.filterMap fun e => match e with
    | .edge _ _ din => din
    | .regW _ _ | .regR _ _ | .memR _ _ | .memW _ _ | .critEnter _ | .critExit _ | .preempt | .ret _ _ => none

/-- The data-out levels at the sampling edges, in order. -/
def sentLevels (h : List Event) : List Bool :=
  h.filterMap fun e => match e with
    | .edge _ dout (some _) => some dout
    | .edge _ _ none | .regW _ _ | .regR _ _ | .memR _ _ | .memW _ _ | .critEnter _ | .critExit _ | .preempt
    | .ret _ _ => none

/-- The polls of the overflow flag. -/
def pollsOf (h : List Event) : List Event :=
  h.filter fun e => match e with
    | .regR .stat _ => true
    | .regR _ _ | .regW _ _ | .edge _ _ _ | .memR _ _ | .memW _ _ | .critEnter _ | .critExit _ | .preempt
    | .ret _ _ => false

/-- The entries and exits of critical sections. -/
def sectionEventsOf (h : List Event) : List Event :=
  h.filter fun e => match e with
    | .critEnter _ | .critExit _ => true
    | .regR _ _ | .regW _ _ | .edge _ _ _ | .memR _ _ | .memW _ _ | .preempt | .ret _ _ => false

/-- The accesses to `DATA` and to memory, and the critical sections they lie between, in order (R54, R89, R140). -/
def accessesOf (h : List Event) : List Event :=
  h.filter fun e => match e with
    | .regW .data _ | .regR .data _ | .memR _ _ | .memW _ _ | .critEnter _ | .critExit _ => true
    | .regR _ _ | .regW _ _ | .edge _ _ _ | .preempt | .ret _ _ => false

/-- The accesses of a single byte's exchange (lines 1 to 3 of R86): load, one critical section, read. `g` is the
interrupt-enable flag that the section saves. -/
def byteAccesses (g : Bool) (out inp : Byte) : List Event :=
  [.regW .data out, .critEnter g, .critExit g, .regR .data inp]

/-- The accesses of `XFERBUF` for `last + 1` bytes, byte `k` being sent as `out k` and received as `inp k` (lines 2 to 14
of R89): the next outgoing byte is fetched before the current one is clocked, and loaded back to back with the read of
the incoming one. -/
def bufferAccesses (g : Bool) (addr : Addr) (last : Nat) (out inp : Nat → Byte) : List Event :=
  [.memR addr (out 0), .regW .data (out 0)] ++
  (List.range last).flatMap (fun k =>
    [.memR (addr + BitVec.ofNat 16 (k + 1)) (out (k + 1)), .critEnter g, .critExit g, .regR .data (inp k),
      .regW .data (out (k + 1)), .memW (addr + BitVec.ofNat 16 k) (inp k)]) ++
  [.critEnter g, .critExit g, .regR .data (inp last), .memW (addr + BitVec.ofNat 16 last) (inp last)]

/-- The results returned, in order. -/
def returnedValues (h : List Event) : List Word :=
  h.filterMap fun e => match e with
    | .ret _ v => some v
    | .regW _ _ | .regR _ _ | .memR _ _ | .memW _ _ | .critEnter _ | .critExit _ | .preempt | .edge _ _ _ => none

/-- Whether a section is open after the events, none if a `Preempt` lies inside one (R93, R125). -/
def sectionScan (opened : Bool) : List Event → Option Bool
  | [] => some opened
  | .critEnter _ :: rest => sectionScan true rest
  | .critExit _ :: rest => sectionScan false rest
  | .preempt :: rest => if opened then none else sectionScan opened rest
  | .regW _ _ :: rest | .regR _ _ :: rest | .memR _ _ :: rest | .memW _ _ :: rest | .edge _ _ _ :: rest
  | .ret _ _ :: rest => sectionScan opened rest

/-- No `Preempt` lies inside a critical section, and the history's last section is open exactly if the state's is. -/
abbrev State.SectionsClean (s : State) : Prop := sectionScan false s.history = some s.saved.isSome

/-! ### Classes of commands -/

end Sys2Proof.Machine

namespace Sys2Proof

open Machine Config

/-- The transfer commands. -/
def Instr.isTransfer : Instr → Bool
  | .xfer8 _ | .xfer16 _ | .xferBuf _ _ => true
  | .beginCmd | .endCmd | .setMode _ | .rdReg _ | .wrReg _ _ | .setBits _ _ | .clrBits _ _ | .useInt _
  | .noUseInt _ | .attachInt | .detachInt => false

/-- The register a register-surface command writes. -/
def Instr.writtenReg : Instr → Option Reg
  | .wrReg r _ | .setBits r _ | .clrBits r _ => some r
  | .beginCmd | .endCmd | .setMode _ | .xfer8 _ | .xfer16 _ | .xferBuf _ _ | .rdReg _ | .useInt _ | .noUseInt _
  | .attachInt | .detachInt => none

/-- A transfer of at least one byte whose buffer, if it has one, is admitted and holds values (R44, R89). -/
def Instr.startsByte (i : Instr) (s : State) : Bool :=
  match i with
  | .xfer8 _ | .xfer16 _ => true
  | .xferBuf addr count =>
    count != 0 && decide (addr.toNat + count.toNat ≤ 2 ^ 16) && bufferHolds s.mem addr count
  | .beginCmd | .endCmd | .setMode _ | .rdReg _ | .wrReg _ _ | .setBits _ _ | .clrBits _ _ | .useInt _
  | .noUseInt _ | .attachInt | .detachInt => false

end Sys2Proof

namespace Sys2Proof.Machine

open Config

/-- `XFER8` for each byte in turn (R91). -/
def singleTransfers : List Byte → State → Result
  | [], s => .next s
  | b :: rest, s => andThen (exec (.xfer8 b) s) (singleTransfers rest)

end Sys2Proof.Machine
end

