-- ==== Sys2Proof/Certificates/Slice0/Obligations.lean ====
section
/-! DEFINITION. The statements for the provers. Each docstring names the rules of spec/ it formalises or rests on. `h`,
`y` bound by an existential stand for the event history and the model's counter of `yield`s, which the interrupt agent
advances freely (R134); every other field of the state is written out. -/

open Sys2Proof Sys2Proof.Machine Sys2Proof.Config

/-! ### Encoding -/

/-- R55, R56, R57, R60: no bit of an operand is dropped, for every command. -/
def Obligations.DecodeEncodeRoundTrip : Prop :=
  ∀ i : Instr, i.wellFormed = true → decode (encode i) = .ok i

/-- R56, R58, R61: every valid word is the encoding of the command it decodes to, and that command is well formed. -/
def Obligations.EncodeDecodeRoundTrip : Prop :=
  ∀ (w : CmdWord) (i : Instr), decode w = .ok i → i.wellFormed = true ∧ encode i = w

/-- R66: a word is a command of a row exactly when it matches the row's mask and pattern and the row's condition on
`reg`; at most one row matches; a word that matches none is invalid. -/
def Obligations.DecoderFollowsOpcodeTable : Prop :=
  (∀ w : CmdWord, ∀ row ∈ opcodeTable,
    (row.admits w = true ↔ ∃ i, decode w = .ok i ∧ i.mnemonic = row.mnemonic)) ∧
  opcodeTable.Pairwise (fun r r' => ∀ w : CmdWord, ¬ (r.admits w = true ∧ r'.admits w = true)) ∧
  (∀ w : CmdWord, (∀ row ∈ opcodeTable, row.admits w = false) → ∃ e, decode w = .error e)

/-- spec/30_encoding.md R64, R65 and the words of spec/95_test_vectors.md V28: a few words read as the spec reads them. -/
def Obligations.SpecWordsDecode : Prop :=
  decode 0x0100000000 = .ok .beginCmd ∧ decode 0x04000000A5 = .ok (.xfer8 0xA5) ∧
  decode 0x0600FF0001 = .ok (.xferBuf 0x00FF 1) ∧ decode 0x0A00030008 = .ok (.setBits .ddr 0x08) ∧
  decode 0x0B00040008 = .ok (.clrBits .port 0x08) ∧ decode 0x1100000009 = .ok (.noUseInt 9) ∧
  decode 0x0300000004 = .error .mustBeZeroBits ∧ decode 0x0800070000 = .error .noSuchRegisterNumber ∧
  decode 0x0A00010040 = .error .notBitAccessible ∧ decode 0x0000000000 = .error .unassignedOpcode

/-- R61: an invalid word that is reached is refused; the step answers no next state, so `CP` does not pass it. -/
def Obligations.InvalidCommandRefused : Prop :=
  ∀ (s : State) (w : CmdWord) (e : InvalidWord),
    s.runOver = false → s.fetch = some w → decode w = .error e → step s = .refused .invalidCommand

/-! ### The step -/

/-- R7, R8, R30, R134: where the word at `CP` decodes to a command, the step is the next micro-operation of that command,
after the `yield` before it. Which event-less lines a micro-operation takes along, and that the interrupt agent is asked
exactly there, are the model's choices of log entries 3 and 4. -/
def Obligations.StepRunsDecodedCommand : Prop :=
  ∀ (s : State) (w : CmdWord) (i : Instr),
    s.runOver = false → s.cmds[s.cp]? = some w → decode w = .ok i → step s = microOp i s.passYield

/-- R134: at a `yield` the interrupt agent appends `Preempt` events and changes nothing else of the machine (`yields` is
the model's own counter); with interrupts off or a section open it does nothing. -/
def Obligations.InterruptAgentOnlyRecords : Prop :=
  ∀ s : State,
    (∃ n k, s.passYield = { s with history := s.history ++ List.replicate n .preempt, yields := s.yields + k }) ∧
    (s.gie = false ∨ s.saved.isSome = true → s.passYield = s)

/-- R156 and log entry 5: with `CP` at the end of the command list and no command in progress the run is over, and the
step answers the model's own fault for it. -/
def Obligations.RunEndsAfterLastCommand : Prop :=
  ∀ s : State, s.cp = s.cmds.length → s.point = .idle → step s = .fault .endOfRun

/-- R30: a step either completes its command and advances `CP` by one, or leaves the command in progress and `CP` alone. -/
def Obligations.PointerAdvancesByOneOrStays : Prop :=
  ∀ s t : State, step s = .next t →
    (t.cp = s.cp + 1 ∧ t.point = .idle) ∨ (t.cp = s.cp ∧ t.point ≠ .idle)

/-- R36, R52: no step writes the command list or a parameter. -/
def Obligations.CommandListNeverWritten : Prop :=
  ∀ s t : State, step s = .next t → t.cmds = s.cmds ∧ t.params = s.params

/-- R33: the history is append-only. -/
def Obligations.HistoryAppendOnly : Prop :=
  ∀ s t : State, step s = .next t → ∃ new, t.history = s.history ++ new

/-! ### Reset and invariants -/

/-- R37: every piece of state at its reset value, in every build. -/
def Obligations.ResetValues : Prop :=
  ∀ (p : Params) (cmds : List CmdWord), ∃ s : State, s = State.resetWith p cmds [] ∧
    s.ctrl = 0 ∧ s.ovf = false ∧ s.cnt = 0 ∧ s.dr = 0 ∧ s.dol = false ∧ s.ddr = 0 ∧ s.port = 0 ∧ s.gie = false ∧
    s.hctrl = 0 ∧ s.dataMode = .mode0 ∧ s.initialized = 0 ∧ s.interruptMode = .none ∧ s.interruptMask = 0 ∧
    s.cp = 0 ∧ s.phase = .idle ∧ s.point = .idle ∧ s.saved = none ∧ s.ret = none ∧
    (∀ a, memGet s.mem a = none) ∧ s.history = []

/-- R37, R150: the invariant holds in the reset state of every build, with every command list and every canonical launch
memory. The reset values are the spec's own decisions, which the model takes (log entry 10); that the command list is
given from outside is the model's choice of log entry 5. -/
def Obligations.ResetMeetsInvariant : Prop :=
  (∀ (p : Params) (cmds : List CmdWord) (mem : List Host.Cell), memWf mem = true →
    (State.resetWith p cmds mem).Inv ∧ (State.resetWith p cmds mem).SectionsClean) ∧
  State.reset.Inv ∧ State.reset.SectionsClean

/-- Every step keeps the machine's invariant: canonical memory, the latch (R22), the phase (R31), interrupts off inside
a section (R93), the pointer (R30), and a command in progress that is the one at `CP`, admitted and in its bounds. -/
def Obligations.InvariantKeptByEveryStep : Prop :=
  ∀ s t : State, s.Inv → step s = .next t → t.Inv

/-- R82, R85, R140: in a state that meets the invariant no step stops at a stray point or for want of a command, and a
command in progress is never refused. The faults `strayPoint` and `noCommand` are the model's own (log entry 11, DESIGN
CHOICE). -/
def Obligations.CommandInProgressNeverRefused : Prop :=
  ∀ s : State, s.Inv →
    step s ≠ .fault .strayPoint ∧ step s ≠ .fault .noCommand ∧
    (s.point ≠ .idle → ∀ r, step s ≠ .refused r)

/-- The canonical form of memory is kept from every state that has it, whatever else the state holds. -/
def Obligations.MemoryStaysCanonical : Prop :=
  ∀ s t : State, memWf s.mem = true → step s = .next t → memWf t.mem = true

/-- R93, R125: no `Preempt` lies between the `CritEnter` and the `CritExit` of one section, along every run. -/
def Obligations.NoInterruptInsideSection : Prop :=
  ∀ s t : State, s.SectionsClean → step s = .next t → t.SectionsClean

/-- R141: a command that completes leaves the global interrupt-enable flag as it found it, but for the register-surface
commands that write `SREG`. -/
def Obligations.InterruptFlagRestored : Prop :=
  ∀ (i : Instr) (s t : State), s.AtRest → exec i s = .next t → t.point = .idle →
    i.writtenReg ≠ some .sreg → t.gie = s.gie

/-- R18, R19: nothing clears a set overflow flag but a write of `STAT` with bit 6 set (a transfer makes one). -/
def Obligations.OverflowFlagNeverClearedByHardware : Prop :=
  ∀ (i : Instr) (s t : State), exec i s = .next t → s.ovf = true → i.isTransfer = false →
    (∀ v : Byte, i = .wrReg .stat v → v.getLsbD 6 = false) → t.ovf = true

/-- R24, R110, R118: the level of the select pin's latch changes only by a register-surface write of `PORT` and by the
first `BEGIN` of the HWSPI variant, which sets it. -/
def Obligations.SelectPinLeftToHost : Prop :=
  ∀ (i : Instr) (s t : State), s.params.pinsDistinct = true → s.point = .idle → exec i s = .next t →
    i.writtenReg ≠ some .port →
    bitOf t.port s.params.pinSs = bitOf s.port s.params.pinSs ∨
    (i = .beginCmd ∧ s.params.variant = .hwspi ∧ s.initialized = 0 ∧ bitOf t.port s.params.pinSs = true)

/-! ### Register surface -/

/-- R100 through `RDREG` (R102): the value read, register by register; nothing else of the machine changes. `STAT` bits
7, 5 and 4 are the free value of this read (R20). -/
def Obligations.ReadReturnsRegister : Prop :=
  ∀ (r : Reg) (s : State), s.point = .idle → regExists s.params.variant r = true →
    ∃ v : Byte,
      exec (.rdReg r) s = .next (State.completed { s with
        ret := some (v.setWidth 16)
        statDraws := if r = .stat then s.statDraws + 1 else s.statDraws } [.regR r v, .ret s.cp (v.setWidth 16)]) ∧
      match r with
      | .ctrl => v.getLsbD 0 = false ∧ v.extractLsb' 1 7 = s.ctrl
      | .stat => v.getLsbD 6 = s.ovf ∧ v.extractLsb' 0 4 = s.cnt ∧
          v.getLsbD 7 = (statBits s.statDraws).getLsbD 2 ∧ v.extractLsb' 4 2 = (statBits s.statDraws).extractLsb' 0 2
      | .data => v = s.dr
      | .ddr => v = s.ddr
      | .port => v = s.port
      | .sreg => v.getLsbD 7 = s.gie ∧ v.extractLsb' 0 7 = 0
      | .hctrl => v = s.hctrl

/-- R101, with the order of R105 and the refusals of R82 and R106: the effect of a full-register write, register by
register; nothing else of the machine changes. That a write of `PORT` leaves the latch alone in the HWSPI variant
(`State.latched`) is the model's choice of log entry 8 (DEDUCED). -/
def Obligations.WriteFollowsRegisterTable : Prop :=
  ∀ (v : Byte) (s : State), s.point = .idle →
    -- CTRL: the stored bits, the latch under the new CS0, then the strobe under the new setting
    (s.params.variant = .usi →
      let u : State := { s with
        ctrl := v.extractLsb' 1 7
        dol := s.latched s.sck (v.getLsbD 2) s.dr
        history := s.history ++ [.regW .ctrl v] }
      exec (.wrReg .ctrl v) s =
        if v.getLsbD 0 = false then .next (u.completed [])
        else if v.getLsbD 3 && v.getLsbD 1 && bitOf s.ddr s.params.pinSck then .next (u.strobe.completed [])
        else .refused .clockNotConfigured) ∧
    -- STAT: bit 6 written 1 clears the flag, bits 3:0 replace the counter, bits 7, 5, 4 are ignored
    (s.params.variant = .usi →
      exec (.wrReg .stat v) s = .next (State.completed { s with
        ovf := if v.getLsbD 6 then false else s.ovf
        cnt := v.extractLsb' 0 4 } [.regW .stat v])) ∧
    -- DATA: all eight bits, and the latch
    (s.params.variant = .usi →
      exec (.wrReg .data v) s = .next (State.completed { s with
        dr := v
        dol := s.latched s.sck s.cs0 v } [.regW .data v])) ∧
    exec (.wrReg .ddr v) s = .next (State.completed { s with ddr := v } [.regW .ddr v]) ∧
    -- PORT: refused where the clock pin would change while CTRL.CS1 = 1; else all bits, and the latch
    exec (.wrReg .port v) s =
      (if s.params.variant = .usi ∧ s.cs1 = true ∧ bitOf v s.params.pinSck ≠ bitOf s.port s.params.pinSck
       then .refused .manualClockEdge
       else .next (State.completed { s with
        port := v
        dol := s.latched (bitOf v s.params.pinSck) s.cs0 s.dr } [.regW .port v])) ∧
    -- SREG: bit 7 is GIE, bits 6:0 are ignored
    exec (.wrReg .sreg v) s = .next (State.completed { s with gie := v.getLsbD 7 } [.regW .sreg v]) ∧
    (s.params.variant = .hwspi →
      exec (.wrReg .hctrl v) s = .next (State.completed { s with hctrl := v } [.regW .hctrl v]))

/-- R107, R108: a bit-set writes the value read or-ed with the mask, a bit-clear the value read and-ed with its
complement, as one register write; for every register that has them and every mask. -/
def Obligations.BitOpsAreOneRegisterWrite : Prop :=
  ∀ (r : Reg) (m : Byte) (s : State), r.bitAccessible = true → s.point = .idle →
    regExists s.params.variant r = true →
    ∃ old : Byte,
      (match r with
        | .ctrl => old.getLsbD 0 = false ∧ old.extractLsb' 1 7 = s.ctrl
        | .ddr => old = s.ddr
        | .port => old = s.port
        | .sreg => old.getLsbD 7 = s.gie ∧ old.extractLsb' 0 7 = 0
        | .hctrl => old = s.hctrl
        | .stat | .data => False) ∧
      exec (.setBits r m) s = exec (.wrReg r (old ||| m)) s ∧
      exec (.clrBits r m) s = exec (.wrReg r (old &&& ~~~m)) s

/-- R107, R109: `SETBITS` completes with the masked bits set and every other bit kept (for `PORT`, where the clock pin
does not change under `CTRL.CS1 = 1`; for `CTRL`, without the strobe bit). In the USI variant the latch follows (R22);
that a write of `PORT` leaves it alone in the HWSPI variant is the model's choice of log entry 8 (DEDUCED). -/
def Obligations.SetBitsSetsMaskedBits : Prop :=
  ∀ (m : Byte) (s : State), s.point = .idle →
    (s.params.variant = .usi → m.getLsbD 0 = false →
      ∃ v : Byte, v.getLsbD 0 = false ∧ v.extractLsb' 1 7 = (s.ctrl ||| m.extractLsb' 1 7) ∧
        exec (.setBits .ctrl m) s = .next (State.completed { s with
          ctrl := s.ctrl ||| m.extractLsb' 1 7
          dol := s.latched s.sck (s.cs0 || m.getLsbD 2) s.dr } [.regW .ctrl v])) ∧
    exec (.setBits .ddr m) s = .next (State.completed { s with ddr := s.ddr ||| m } [.regW .ddr (s.ddr ||| m)]) ∧
    (bitOf (s.port ||| m) s.params.pinSck = bitOf s.port s.params.pinSck ∨ s.cs1 = false ∨
        s.params.variant = .hwspi →
      exec (.setBits .port m) s = .next (State.completed { s with
        port := s.port ||| m
        dol := s.latched (bitOf (s.port ||| m) s.params.pinSck) s.cs0 s.dr } [.regW .port (s.port ||| m)])) ∧
    (∃ v : Byte, v.getLsbD 7 = (s.gie || m.getLsbD 7) ∧
      exec (.setBits .sreg m) s = .next (State.completed { s with gie := s.gie || m.getLsbD 7 } [.regW .sreg v])) ∧
    (s.params.variant = .hwspi →
      exec (.setBits .hctrl m) s = .next (State.completed { s with
        hctrl := s.hctrl ||| m } [.regW .hctrl (s.hctrl ||| m)]))

/-- R108, R109: `CLRBITS` completes with the masked bits cleared and every other bit kept; it never strobes. In the USI
variant the latch follows (R22); that a write of `PORT` leaves it alone in the HWSPI variant is the model's choice of log
entry 8 (DEDUCED). -/
def Obligations.ClrBitsClearsMaskedBits : Prop :=
  ∀ (m : Byte) (s : State), s.point = .idle →
    (s.params.variant = .usi →
      ∃ v : Byte, v.getLsbD 0 = false ∧ v.extractLsb' 1 7 = (s.ctrl &&& ~~~(m.extractLsb' 1 7)) ∧
        exec (.clrBits .ctrl m) s = .next (State.completed { s with
          ctrl := s.ctrl &&& ~~~(m.extractLsb' 1 7)
          dol := s.latched s.sck (s.cs0 && !m.getLsbD 2) s.dr } [.regW .ctrl v])) ∧
    exec (.clrBits .ddr m) s = .next (State.completed { s with
      ddr := s.ddr &&& ~~~m } [.regW .ddr (s.ddr &&& ~~~m)]) ∧
    (bitOf (s.port &&& ~~~m) s.params.pinSck = bitOf s.port s.params.pinSck ∨ s.cs1 = false ∨
        s.params.variant = .hwspi →
      exec (.clrBits .port m) s = .next (State.completed { s with
        port := s.port &&& ~~~m
        dol := s.latched (bitOf (s.port &&& ~~~m) s.params.pinSck) s.cs0 s.dr } [.regW .port (s.port &&& ~~~m)])) ∧
    (∃ v : Byte, v.getLsbD 7 = (s.gie && !m.getLsbD 7) ∧
      exec (.clrBits .sreg m) s = .next (State.completed { s with gie := s.gie && !m.getLsbD 7 } [.regW .sreg v])) ∧
    (s.params.variant = .hwspi →
      exec (.clrBits .hctrl m) s = .next (State.completed { s with
        hctrl := s.hctrl &&& ~~~m } [.regW .hctrl (s.hctrl &&& ~~~m)]))

/-- R104: each of the four register-surface commands refuses a register of the other variant. -/
def Obligations.RegisterOfOtherVariantRefused : Prop :=
  ∀ (r : Reg) (v : Byte) (s : State), s.point = .idle →
    (s.params.variant = .hwspi ∧ (r = .ctrl ∨ r = .stat ∨ r = .data)) ∨ (s.params.variant = .usi ∧ r = .hctrl) →
    exec (.rdReg r) s = .refused .noSuchRegister ∧ exec (.wrReg r v) s = .refused .noSuchRegister ∧
    (r.bitAccessible = true → exec (.setBits r v) s = .refused .noSuchRegister ∧
      exec (.clrBits r v) s = .refused .noSuchRegister)

/-- R106: a write, bit-set or bit-clear of `PORT` that changes the clock pin while `CTRL.CS1 = 1` is refused; while
`CTRL.CS1 = 0` the bit may be written freely. -/
def Obligations.ManualClockEdgeRefused : Prop :=
  ∀ (v : Byte) (s : State), s.point = .idle → s.params.variant = .usi →
    (s.cs1 = true →
      (bitOf v s.params.pinSck ≠ bitOf s.port s.params.pinSck → exec (.wrReg .port v) s = .refused .manualClockEdge) ∧
      (bitOf v s.params.pinSck = true ∧ bitOf s.port s.params.pinSck = false →
        exec (.setBits .port v) s = .refused .manualClockEdge) ∧
      (bitOf v s.params.pinSck = true ∧ bitOf s.port s.params.pinSck = true →
        exec (.clrBits .port v) s = .refused .manualClockEdge)) ∧
    (s.cs1 = false →
      (∃ t, exec (.wrReg .port v) s = .next t ∧ t.port = v) ∧
      (∃ t, exec (.setBits .port v) s = .next t ∧ t.port = (s.port ||| v)) ∧
      (∃ t, exec (.clrBits .port v) s = .next t ∧ t.port = (s.port &&& ~~~v)))

/-- R58, R61: a bit-set or bit-clear of `STAT` or `DATA` is no command: it is refused, and no word decodes to it. -/
def Obligations.BitOpsOnStatAndDataInvalid : Prop :=
  ∀ (r : Reg) (m : Byte) (s : State), r = .stat ∨ r = .data →
    exec (.setBits r m) s = .refused .invalidCommand ∧ exec (.clrBits r m) s = .refused .invalidCommand ∧
    ∀ w : CmdWord, decode w ≠ .ok (.setBits r m) ∧ decode w ≠ .ok (.clrBits r m)

/-! ### The strobe -/

/-- R80, R25: one strobe, `SETBITS CTRL, 0x01` (R65): the clock line toggles, the counter counts and sets the flag on
its wrap unless the fault parameter is on, and a sampling edge shifts while a setup edge opens the latch. -/
def Obligations.StrobeTogglesCountsAndShifts : Prop :=
  ∀ s : State, s.point = .idle → s.params.variant = .usi → s.clkCfg = true → s.LatchHolds →
    let level := !s.sck
    let counted : State := { s with
      port := s.port ^^^ bitMask s.params.pinSck
      cnt := if s.params.hwFaultNoOverflow then s.cnt else s.cnt + 1
      ovf := if s.params.hwFaultNoOverflow then s.ovf else s.ovf || s.cnt == 15#4 }
    let written : Byte := s.ctrlByte ||| 0x01
    let wired := s.params.wiring == .loopback && s.doDriven
    let din := if wired then s.dol else wireLevel s.wireDraws
    exec (.setBits .ctrl 0x01) s =
      if level ≠ s.cs0 then
        .next (State.completed { counted with
          dr := s.dr.extractLsb' 0 7 ++ BitVec.ofBool din
          wireDraws := if wired then s.wireDraws else s.wireDraws + 1 }
          [.regW .ctrl written, .edge level s.dol (some din)])
      else
        .next (State.completed { counted with dol := s.dr.getLsbD 7 }
          [.regW .ctrl written, .edge level (s.dr.getLsbD 7) none])

/-- R82, R107, R101: every write that strobes, a bit-set or a full write of `CTRL` with bit 0 set, is refused where
`CLKCFG` is false under the setting it writes. -/
def Obligations.StrobeWithoutClockRefused : Prop :=
  ∀ (v : Byte) (s : State), s.point = .idle → s.params.variant = .usi → v.getLsbD 0 = true →
    (((s.cs1 || v.getLsbD 3) && (s.clk || v.getLsbD 1) && bitOf s.ddr s.params.pinSck) = false →
      exec (.setBits .ctrl v) s = .refused .clockNotConfigured) ∧
    ((v.getLsbD 3 && v.getLsbD 1 && bitOf s.ddr s.params.pinSck) = false →
      exec (.wrReg .ctrl v) s = .refused .clockNotConfigured)

/-! ### Lifecycle of the USI variant -/

/-- R71: `BEGIN` configures the engine with its five register writes, in their order, and touches nothing else. -/
def Obligations.BeginConfiguresEngine : Prop :=
  ∀ s : State, s.point = .idle → s.params.variant = .usi → s.params.pinsDistinct = true → s.LatchHolds →
    let c1 := s.ctrl &&& 0x0F
    let c2 := c1 ||| 0x0D
    let d3 := s.ddr ||| bitMask s.params.pinSck
    let d4 := d3 ||| bitMask s.params.pinDo
    let d5 := d4 &&& ~~~(bitMask s.params.pinDi)
    ∃ h y, exec .beginCmd s = .next { s with
        ctrl := c2, ddr := d5, cp := s.cp + 1, locals := Locals.cleared, history := h, yields := y } ∧
      withoutPreempts h = withoutPreempts s.history ++
        [.regW .ctrl (c1 ++ 0#1), .regW .ctrl (c2 ++ 0#1), .regW .ddr d3, .regW .ddr d4, .regW .ddr d5] ∧
      ({ s with ctrl := c2, ddr := d5 } : State).configured = true

/-- R72: a `BEGIN` in a state a `BEGIN` produced changes no state bit but `CP` (and records its events). -/
def Obligations.BeginIsIdempotent : Prop :=
  ∀ s t : State, s.params.variant = .usi → s.params.pinsDistinct = true → s.AtRest → s.LatchHolds →
    exec .beginCmd s = .next t →
    ∃ h y, exec .beginCmd t = .next { t with cp := t.cp + 1, history := h, yields := y }

/-- R73, R15: `SETMODE` stores the mode and writes the clock-source bit, 1 for `MODE1` and 0 otherwise; it clocks
nothing, and the latch follows the new bit. -/
def Obligations.SetModeWritesClockSourceBit : Prop :=
  ∀ (m : DataMode) (s : State), s.point = .idle → s.params.variant = .usi →
    let c := if m = .mode1 then s.ctrl ||| 0x02 else s.ctrl &&& ~~~0x02#7
    exec (.setMode m) s = .next (State.completed { s with
      dataMode := m
      ctrl := c
      dol := s.latched s.sck (decide (m = .mode1)) s.dr } [.regW .ctrl (c ++ 0#1)])

/-- R74: `MODE0`, `MODE2` and `MODE3` have the same effect but for the stored `dataMode`. -/
def Obligations.ModesNarrowToClockSource : Prop :=
  ∀ (m n : DataMode) (s t : State), s.params.variant = .usi → m ≠ .mode1 → n ≠ .mode1 →
    exec (.setMode m) s = .next t → exec (.setMode n) s = .next { t with dataMode := n }

/-- R75, R76: `END` clears the wire-mode bits, so that `CONFIGURED` is false, and leaves everything else. -/
def Obligations.EndClearsWireMode : Prop :=
  ∀ s : State, s.point = .idle → s.params.variant = .usi → s.LatchHolds →
    exec .endCmd s = .next (State.completed { s with ctrl := s.ctrl &&& 0x67 } [.regW .ctrl ((s.ctrl &&& 0x67) ++ 0#1)]) ∧
    ({ s with ctrl := s.ctrl &&& 0x67 } : State).configured = false

/-! ### Transfers -/

/-- R86, R83, R94: `XFER8` exchanges one byte: it returns what came in (the operand itself in loopback, the slave's eight
levels otherwise), leaves the flag set and the counter at 0, the clock line and the interrupt flag as they were. -/
def Obligations.Xfer8ExchangesOneByte : Prop :=
  ∀ (b : Byte) (s : State), s.ReadyToTransfer →
    ∃ h y, exec (.xfer8 b) s = .next { s with
      dr := s.received 0 b
      dol := s.latchAfter b (s.received 0 b)
      ovf := true, cnt := 0
      ret := some ((s.received 0 b).setWidth 16)
      cp := s.cp + 1, locals := Locals.cleared
      wireDraws := s.wireDraws + s.drawnFor 1, statDraws := s.statDraws + 17
      history := h, yields := y }

/-- R87, R42: `XFER16` exchanges two bytes, the most significant first, and returns the two received bytes in the same
order. -/
def Obligations.Xfer16ExchangesTwoBytes : Prop :=
  ∀ (w : Word) (s : State), s.ReadyToTransfer →
    let hi := s.received 0 (w.extractLsb' 8 8)
    let lo := s.received 1 (w.extractLsb' 0 8)
    ∃ h y, exec (.xfer16 w) s = .next { s with
      dr := lo
      dol := s.latchAfter (w.extractLsb' 0 8) lo
      ovf := true, cnt := 0
      ret := some (hi ++ lo)
      cp := s.cp + 1, locals := Locals.cleared
      wireDraws := s.wireDraws + s.drawnFor 2, statDraws := s.statDraws + 34
      history := h, yields := y }

/-- R89, R44, R54: `XFERBUF` exchanges its bytes in place, in ascending order: byte `k` of the buffer becomes what came
in while it was sent; every other byte of memory, `RET`, and everything a single transfer leaves alone stay. -/
def Obligations.XferBufExchangesInPlace : Prop :=
  ∀ (addr : Addr) (count : Word) (last : Byte) (s : State), s.ReadyToTransfer → count ≠ 0 →
    addr.toNat + count.toNat ≤ 2 ^ 16 → bufferHolds s.mem addr count = true →
    memGet s.mem (addr.toNat + (count.toNat - 1)) = some last →
    ∃ m h y, exec (.xferBuf addr count) s = .next { s with
        dr := s.received (count.toNat - 1) last
        dol := s.latchAfter last (s.received (count.toNat - 1) last)
        ovf := true, cnt := 0, mem := m
        cp := s.cp + 1, locals := Locals.cleared
        wireDraws := s.wireDraws + s.drawnFor count.toNat, statDraws := s.statDraws + 17 * count.toNat
        history := h, yields := y } ∧
      (∀ k, k < count.toNat → memGet m (addr.toNat + k) = (memGet s.mem (addr.toNat + k)).map (s.received k)) ∧
      (∀ a, a < addr.toNat ∨ addr.toNat + count.toNat ≤ a → memGet m a = memGet s.mem a)

/-- R90: `XFERBUF` with `count = 0` does nothing but advance `CP`, in every state of the USI variant and for every
address. -/
def Obligations.EmptyBufferIsNoOp : Prop :=
  ∀ (addr : Addr) (s : State), s.point = .idle → s.params.variant = .usi →
    exec (.xferBuf addr 0) s = .next { s with cp := s.cp + 1, locals := Locals.cleared }

/-- R92: in loopback every transfer returns what it sends, for both values of `CS0` and both idle levels of the clock
line, and every sampling edge rotates the shift register left by one. -/
def Obligations.LoopbackIsIdentity : Prop :=
  ∀ s : State, s.ReadyToTransfer → s.params.wiring = .loopback →
    (∀ b : Byte, ∃ t, exec (.xfer8 b) s = .next t ∧ t.ret = some (b.setWidth 16)) ∧
    (∀ w : Word, ∃ t, exec (.xfer16 w) s = .next t ∧ t.ret = some w) ∧
    (∀ (addr : Addr) (count : Word), count ≠ 0 → addr.toNat + count.toNat ≤ 2 ^ 16 →
      bufferHolds s.mem addr count = true →
      ∃ t, exec (.xferBuf addr count) s = .next t ∧ ∀ a, memGet t.mem a = memGet s.mem a) ∧
    (s.LatchHolds → s.sck = s.cs0 → s.strobe.dr = s.dr.rotateLeft 1)

/-- R83, R86 to R90, R54, R140: what a transfer shows. For each byte 16 strobes, 17 polls and one entry and exit of a critical
section, the outgoing byte's bits highest first at the sampling edges and the received byte's bits taken in that order.
`XFER8` does so once and `XFER16` twice, the high byte first; `XFERBUF` does so for each byte of its buffer in ascending
order, with its accesses to `DATA` and memory, outside the sections, in the order of lines 2 to 14 of R89 (whose
place of the memory accesses is the spec's own decision D16). -/
def Obligations.WireShowsBytesMsbFirst : Prop :=
  ∀ s : State, s.ReadyToTransfer →
    (∀ b : Byte, ∃ t new, exec (.xfer8 b) s = .next t ∧ t.history = s.history ++ new ∧
      (edgesOf new).length = 16 ∧ (pollsOf new).length = 17 ∧
      sentLevels new = bitsMsbFirst b ∧ sampledLevels new = bitsMsbFirst (s.received 0 b) ∧
      sectionEventsOf new = [.critEnter s.gie, .critExit s.gie] ∧
      accessesOf new = byteAccesses s.gie b (s.received 0 b)) ∧
    (∀ w : Word,
      let hi := s.received 0 (w.extractLsb' 8 8)
      let lo := s.received 1 (w.extractLsb' 0 8)
      ∃ t new, exec (.xfer16 w) s = .next t ∧ t.history = s.history ++ new ∧
        (edgesOf new).length = 32 ∧ (pollsOf new).length = 34 ∧
        sentLevels new = bitsMsbFirst w ∧ sampledLevels new = bitsMsbFirst (hi ++ lo) ∧
        sectionEventsOf new = [.critEnter s.gie, .critExit s.gie, .critEnter s.gie, .critExit s.gie] ∧
        accessesOf new =
          byteAccesses s.gie (w.extractLsb' 8 8) hi ++ byteAccesses s.gie (w.extractLsb' 0 8) lo) ∧
    (∀ (addr : Addr) (last : Nat) (out : Nat → Byte), addr.toNat + (last + 1) ≤ 2 ^ 16 → last + 1 < 2 ^ 16 →
      (∀ k, k ≤ last → memGet s.mem (addr.toNat + k) = some (out k)) →
      ∃ t new, exec (.xferBuf addr (BitVec.ofNat 16 (last + 1))) s = .next t ∧ t.history = s.history ++ new ∧
        (edgesOf new).length = 16 * (last + 1) ∧ (pollsOf new).length = 17 * (last + 1) ∧
        sentLevels new = (List.range (last + 1)).flatMap (fun k => bitsMsbFirst (out k)) ∧
        sampledLevels new = (List.range (last + 1)).flatMap (fun k => bitsMsbFirst (s.received k (out k))) ∧
        sectionEventsOf new = (List.range (last + 1)).flatMap (fun _ => [.critEnter s.gie, .critExit s.gie]) ∧
        accessesOf new = bufferAccesses s.gie addr last out (fun k => s.received k (out k)))

/-- R91: a buffer transfer shows the clock edges of the single transfers of its bytes, in order, and leaves their results
in memory. -/
def Obligations.BufferMatchesSingleTransfers : Prop :=
  ∀ (addr : Addr) (count : Word) (bytes : List Byte) (s : State), s.ReadyToTransfer → count ≠ 0 →
    addr.toNat + count.toNat ≤ 2 ^ 16 →
    (List.range count.toNat).map (fun k => memGet s.mem (addr.toNat + k)) = bytes.map some →
    ∃ t u new, exec (.xferBuf addr count) s = .next t ∧ singleTransfers bytes s = .next u ∧
      u.history = s.history ++ new ∧
      edgesOf t.history = edgesOf u.history ∧
      (List.range count.toNat).map (fun k => memGet t.mem (addr.toNat + k)) =
        (returnedValues new).map (fun v => some (v.setWidth 8))

/-- R94: a transfer of `n` bytes toggles the clock line `16 n` times and leaves it at the level it had. -/
def Obligations.ClockLineReturns : Prop :=
  ∀ (i : Instr) (n : Nat) (s : State), s.ReadyToTransfer →
    ((∃ b, i = .xfer8 b) ∧ n = 1) ∨ ((∃ w, i = .xfer16 w) ∧ n = 2) ∨
      (∃ addr count, i = .xferBuf addr count ∧ n = count.toNat ∧ addr.toNat + n ≤ 2 ^ 16 ∧
        bufferHolds s.mem addr count = true) →
    ∃ t new, exec i s = .next t ∧ t.history = s.history ++ new ∧ (edgesOf new).length = 16 * n ∧
      t.sck = s.sck ∧ t.port = s.port

/-- R85, R44, R135: where a transfer is refused, variant first, then state, then the buffer's range; and no transfer
changes whether the engine is configured. -/
def Obligations.TransferAdmission : Prop :=
  ∀ (i : Instr) (s : State), i.isTransfer = true →
    (s.params.variant = .hwspi → s.point = .idle → exec i s = .refused .noDataPathInSource) ∧
    (s.params.variant = .usi → s.point = .idle → s.configured = false → (∀ a, i ≠ .xferBuf a 0) →
      exec i s = .refused .notConfigured) ∧
    (s.params.variant = .usi → s.point = .idle → s.configured = true →
      ∀ addr count, i = .xferBuf addr count → count ≠ 0 → 2 ^ 16 < addr.toNat + count.toNat →
      exec i s = .refused .bufferWraps) ∧
    (∀ t, exec i s = .next t → t.configured = s.configured)

/-- R44: a buffer with a byte that holds no value faults at the first such byte. -/
def Obligations.UnwrittenByteFaults : Prop :=
  ∀ (addr : Addr) (count : Word) (k : Nat) (s : State), s.ReadyToTransfer → k < count.toNat →
    addr.toNat + count.toNat ≤ 2 ^ 16 →
    (∀ j, j < k → (memGet s.mem (addr.toNat + j)).isSome = true) → memGet s.mem (addr.toNat + k) = none →
    exec (.xferBuf addr count) s = .fault (.memNoValue (addr + BitVec.ofNat 16 k))

/-- The frame of the transfer commands, from every state (R85, R86, R87, R89): the pin directions, `CTRL`, `HCTRL`, the
driver state and the parameters stay; of `PORT` only the clock pin's bit can differ; the single transfers leave memory
alone, and `XFERBUF` every byte outside its buffer, and `RET`. -/
def Obligations.TransferFrame : Prop :=
  ∀ (i : Instr) (s t : State), i.isTransfer = true → exec i s = .next t →
    (t.ctrl = s.ctrl ∧ t.ddr = s.ddr ∧ t.hctrl = s.hctrl ∧ t.dataMode = s.dataMode ∧
      t.initialized = s.initialized ∧ t.interruptMode = s.interruptMode ∧ t.interruptMask = s.interruptMask ∧
      t.params = s.params ∧ t.cmds = s.cmds) ∧
    (∀ n : Fin 8, n ≠ s.params.pinSck → bitOf t.port n = bitOf s.port n) ∧
    (∀ addr count, i = .xferBuf addr count → t.ret = s.ret ∧
      (s.point = .idle → ∀ a, a < addr.toNat ∨ addr.toNat + count.toNat ≤ a → memGet t.mem a = memGet s.mem a)) ∧
    ((∀ addr count, i ≠ .xferBuf addr count) → t.mem = s.mem)

/-- R84: where the overflow flag never sets, a transfer of at least one byte never completes and never stops: no number
of steps moves `CP` or stops, and once the first byte's section is open, at most five steps in, every two further steps
poll and strobe once more, with the phase `CLOCKING`, interrupts off and the flag clear. The five, and the two, count
micro-operations as the model's choice of log entry 3 has them. -/
def Obligations.HangNeverEnds : Prop :=
  ∀ (s : State) (w : CmdWord) (i : Instr), s.AtRest → s.params.variant = .usi → s.configured = true →
    s.params.hwFaultNoOverflow = true → s.fetch = some w → decode w = .ok i → i.startsByte s = true →
    (∀ n : Nat, ∃ t : State, Sys2Proof.core.run (n + 1) s = .next t ∧ t.cp = s.cp ∧ t.point ≠ .idle) ∧
    ∃ k, k ≤ 5 ∧ ∀ n : Nat, ∃ t : State, Sys2Proof.core.run (k + 2 * n) s = .next t ∧
      t.phase = .clocking ∧ t.gie = false ∧ t.ovf = false ∧ t.cp = s.cp ∧
      (edgesOf t.history).length = (edgesOf s.history).length + n

/-! ### The hardware-SPI variant -/

/-- R114, R118: the first `BEGIN` sets the select pin high and then an output, sets master mode and the enable bit, then
makes clock and data-out outputs, all in one critical section; a later one only counts. -/
def Obligations.HwBeginSetsUpOnFirstReference : Prop :=
  ∀ s : State, s.AtRest → s.params.variant = .hwspi → s.params.pinsDistinct = true →
    (s.initialized = 0 →
      let p := s.port ||| bitMask s.params.pinSs
      let d1 := s.ddr ||| bitMask s.params.pinSs
      let d2 := d1 ||| bitMask s.params.pinSck
      let d3 := d2 ||| bitMask s.params.pinDo
      exec .beginCmd s = .next (State.completed { s with
          port := p, ddr := d3, hctrl := s.hctrl ||| 0x50, initialized := 1 }
        [.critEnter s.gie, .regW .port p, .regW .ddr d1, .regW .hctrl (s.hctrl ||| 0x10),
          .regW .hctrl (s.hctrl ||| 0x50), .regW .ddr d2, .regW .ddr d3, .critExit s.gie])) ∧
    (s.initialized ≠ 0 → s.initialized ≠ 255 →
      exec .beginCmd s = .next (State.completed { s with initialized := s.initialized + 1 }
        [.critEnter s.gie, .critExit s.gie]))

/-- R115: `BEGIN` with the reference count at 255 is refused. -/
def Obligations.HwBeginSaturates : Prop :=
  ∀ s : State, s.point = .idle → s.params.variant = .hwspi → s.initialized = 255 →
    exec .beginCmd s = .refused .refcountSaturated

/-- R116: `END` counts down to 0 and no further; the one that reaches 0 clears the enable bit, and the interrupt mode if
the open parameter says so. -/
def Obligations.HwEndPowersDownOnLastReference : Prop :=
  ∀ s : State, s.AtRest → s.params.variant = .hwspi →
    (s.initialized = 0 → exec .endCmd s = .next (s.completed [.critEnter s.gie, .critExit s.gie])) ∧
    (s.initialized = 1 →
      exec .endCmd s = .next (State.completed { s with
          initialized := 0
          hctrl := s.hctrl &&& 0xBF
          interruptMode := if s.params.endResetsIntMode then .none else s.interruptMode }
        [.critEnter s.gie, .regW .hctrl (s.hctrl &&& 0xBF), .critExit s.gie])) ∧
    (s.initialized ≠ 0 → s.initialized ≠ 1 →
      exec .endCmd s = .next (State.completed { s with initialized := s.initialized - 1 }
        [.critEnter s.gie, .critExit s.gie]))

/-- R117: the enable bit is set exactly while the reference count is positive, along every command but a host's write of
`HCTRL`; `BEGIN` adds one reference, `END` takes one unless there is none, and no other command changes the count. -/
def Obligations.EnabledIffReferenced : Prop :=
  ∀ (i : Instr) (s t : State), s.params.variant = .hwspi → s.AtRest → exec i s = .next t →
    (i.writtenReg ≠ some .hctrl → (s.spe = true ↔ 0 < s.initialized.toNat) → (t.spe = true ↔ 0 < t.initialized.toNat)) ∧
    t.initialized.toNat =
      if i = .beginCmd then s.initialized.toNat + 1
      else if i = .endCmd then s.initialized.toNat - 1
      else s.initialized.toNat

/-- R119: `USEINT` adds a recognised line to the mask and to the mode, and falls to `ALL` on any other. -/
def Obligations.UseIntRegistersLine : Prop :=
  ∀ (n : Byte) (s : State), s.AtRest → s.params.variant = .hwspi →
    (∀ bit : Fin 8, s.params.intMaskTable.lookup n = some bit →
      exec (.useInt n) s = .next (State.completed { s with
          interruptMask := s.interruptMask ||| bitMask bit
          interruptMode := if s.interruptMode = .none then .lines else s.interruptMode }
        [.critEnter s.gie, .critExit s.gie])) ∧
    (s.params.intMaskTable.lookup n = none →
      exec (.useInt n) s = .next (State.completed { s with interruptMode := .all }
        [.critEnter s.gie, .critExit s.gie]))

/-- R121: `NOUSEINT` takes a recognised line out of the mask, and the mode falls to `NONE` on an empty mask; in mode
`ALL` it changes nothing. -/
def Obligations.NoUseIntDeregistersLine : Prop :=
  ∀ (n : Byte) (s : State), s.AtRest → s.params.variant = .hwspi →
    let kept : Byte := match s.params.intMaskTable.lookup n with
      | some bit => s.interruptMask &&& ~~~(bitMask bit)
      | none => s.interruptMask
    (s.interruptMode = .all → exec (.noUseInt n) s = .next (s.completed [.critEnter s.gie, .critExit s.gie])) ∧
    (s.interruptMode ≠ .all →
      exec (.noUseInt n) s = .next (State.completed { s with
          interruptMask := kept
          interruptMode := if kept = 0 then .none else s.interruptMode }
        [.critEnter s.gie, .critExit s.gie]))

/-- R120: mode `ALL` is left by no command but, under `END_RESETS_INTMODE`, the `END` that takes the count from 1 to 0. -/
def Obligations.AllModeAbsorbs : Prop :=
  ∀ (i : Instr) (s t : State), s.point = .idle → s.interruptMode = .all → exec i s = .next t →
    t.interruptMode = .all ∨
    (i = .endCmd ∧ s.params.variant = .hwspi ∧ s.params.endResetsIntMode = true ∧ s.initialized = 1 ∧
      t.interruptMode = .none)

/-- R73, R113: the commands a variant has no meaning for are refused; and the test of `CTRL.CS1` in R106 is false in the
HWSPI variant, for a write, a bit-set and a bit-clear of `PORT`. -/
def Obligations.CommandsOutsideVariantRefused : Prop :=
  ∀ (n : Byte) (m : DataMode) (s : State),
    (s.params.variant = .usi →
      exec (.useInt n) s = .refused .notInVariant ∧ exec (.noUseInt n) s = .refused .notInVariant) ∧
    (s.params.variant = .hwspi →
      exec (.setMode m) s = .refused .noSemanticsInSource ∧
      exec (.wrReg .port n) s ≠ .refused .manualClockEdge ∧
      exec (.setBits .port n) s ≠ .refused .manualClockEdge ∧
      exec (.clrBits .port n) s ≠ .refused .manualClockEdge)

/-- R123, R124: `ATTACHINT` (word `0x1200000000`) and `DETACHINT` (word `0x1300000000`) are refused in both variants, in
every state. -/
def Obligations.AttachAndDetachRefused : Prop :=
  decode 0x1200000000 = .ok .attachInt ∧ decode 0x1300000000 = .ok .detachInt ∧
  ∀ s : State,
    (s.params.variant = .hwspi →
      exec .attachInt s = .refused .noSemanticsInSource ∧ exec .detachInt s = .refused .noSemanticsInSource) ∧
    (s.params.variant = .usi →
      exec .attachInt s = .refused .notInVariant ∧ exec .detachInt s = .refused .notInVariant)

/-! ### A command and its steps -/

/-- R7, R8: the steps from a state come to what `exec` says of the whole command, outcome by outcome: after some number of
them the run has the command's next state, or has stopped as the command stops. The bound after which `exec` gives up on a
command that hangs (R84) is the model's choice of log entry 3. -/
def Obligations.CommandIsItsSteps : Prop :=
  ∀ (s : State) (w : CmdWord) (i : Instr), s.fetch = some w → decode w = .ok i →
    ∃ n, 0 < n ∧ Sys2Proof.core.run n s = exec i s.passYield

/-- R44, R45, R89: where byte `k` of a buffer is the first that holds no value, the run stops there and not before: the
step that faults is taken in a state in which the bytes up to `k - 2` have been exchanged and written back, and all other
memory is as it was (line 6 of R89 fetches byte `k` before byte `k - 1` is clocked). -/
def Obligations.EarlierBytesLandBeforeAFault : Prop :=
  ∀ (addr : Addr) (count : Word) (k : Nat) (s : State) (w : CmdWord), s.ReadyToTransfer → s.fetch = some w →
    decode w = .ok (.xferBuf addr count) → k < count.toNat → addr.toNat + count.toNat ≤ 2 ^ 16 →
    (∀ j, j < k → (memGet s.mem (addr.toNat + j)).isSome = true) → memGet s.mem (addr.toNat + k) = none →
    ∃ n t new, Sys2Proof.core.run n s = .next t ∧ step t = .fault (.memNoValue (addr + BitVec.ofNat 16 k)) ∧
      t.cp = s.cp ∧ t.history = s.history ++ new ∧ (edgesOf new).length = 16 * (k - 1) ∧
      (∀ j, j + 1 < k → memGet t.mem (addr.toNat + j) = (memGet s.mem (addr.toNat + j)).map (s.received j)) ∧
      (∀ a, a < addr.toNat ∨ addr.toNat + (k - 1) ≤ a → memGet t.mem a = memGet s.mem a)

/-! ### The lines -/

/-- R25, R65, R110, R118: the select line. `SSOUT` drives it at its latch's level, `DESELECT` makes that level high and
`SELECT` low, which selects, and while its direction bit is 0 it is not driven; no transfer changes it; the first `BEGIN`
of the HWSPI variant leaves it driven high. That low selects is the spec's own decision D22; that a line which is not driven
selects nothing is the model's choice of log entry 13 (DESIGN CHOICE). -/
def Obligations.SelectLineFollowsPins : Prop :=
  ∀ s : State, s.point = .idle → s.params.pinsDistinct = true →
    (∃ t, exec (.setBits .ddr (bitMask s.params.pinSs)) s = .next t ∧
      t.ssLine = some (bitOf s.port s.params.pinSs)) ∧
    (∃ t, exec (.setBits .port (bitMask s.params.pinSs)) s = .next t ∧ t.selected = false ∧
      t.ssLine = if bitOf s.ddr s.params.pinSs then some true else none) ∧
    (∃ t, exec (.clrBits .port (bitMask s.params.pinSs)) s = .next t ∧ t.selected = bitOf s.ddr s.params.pinSs ∧
      t.ssLine = if bitOf s.ddr s.params.pinSs then some false else none) ∧
    (∀ i t, i.isTransfer = true → exec i s = .next t → t.ssLine = s.ssLine) ∧
    (s.params.variant = .hwspi → s.saved = none → s.initialized = 0 →
      ∃ t, exec .beginCmd s = .next t ∧ t.ssLine = some true ∧ t.selected = false)

/-- R25, R80: the clock and data lines at a strobe. The clock line, driven where `CLKCFG` holds, toggles; at a sampling
edge the shift register takes in the data-out line in loopback where the latch drives it, else the free value of a draw;
and `CONFIGURED` has both lines driven. -/
def Obligations.StrobeMovesTheLines : Prop :=
  ∀ s : State, s.point = .idle → s.params.variant = .usi → s.clkCfg = true → s.LatchHolds →
    s.sckLine = some s.sck ∧
    (s.configured = true → s.doLine = some s.dol) ∧
    ∃ t, exec (.setBits .ctrl 0x01) s = .next t ∧ t.sckLine = some (!s.sck) ∧
      (s.sck = s.cs0 → t.doLine = s.doLine ∧
        t.dr = s.dr.extractLsb' 0 7 ++ BitVec.ofBool (match s.params.wiring, s.doLine with
          | .loopback, some level => level
          | .loopback, none | .slave, _ => wireLevel s.wireDraws))
end

