-- ==== Sys2Proof/Laws/State.lean ====
section
/-! SUPPORT. For every update of the state, each field afterwards: no later proof unfolds a record update. The lemmas of
an update that rests on a condition say which fields it leaves alone on both sides of it. -/

namespace Sys2Proof.Machine

@[simp] theorem emit_params (e : Event) (s : State) : (s.emit e).params = s.params := rfl
@[simp] theorem emit_cmds (e : Event) (s : State) : (s.emit e).cmds = s.cmds := rfl
@[simp] theorem emit_cp (e : Event) (s : State) : (s.emit e).cp = s.cp := rfl
@[simp] theorem emit_ctrl (e : Event) (s : State) : (s.emit e).ctrl = s.ctrl := rfl
@[simp] theorem emit_ovf (e : Event) (s : State) : (s.emit e).ovf = s.ovf := rfl
@[simp] theorem emit_cnt (e : Event) (s : State) : (s.emit e).cnt = s.cnt := rfl
@[simp] theorem emit_dr (e : Event) (s : State) : (s.emit e).dr = s.dr := rfl
@[simp] theorem emit_dol (e : Event) (s : State) : (s.emit e).dol = s.dol := rfl
@[simp] theorem emit_ddr (e : Event) (s : State) : (s.emit e).ddr = s.ddr := rfl
@[simp] theorem emit_port (e : Event) (s : State) : (s.emit e).port = s.port := rfl
@[simp] theorem emit_gie (e : Event) (s : State) : (s.emit e).gie = s.gie := rfl
@[simp] theorem emit_hctrl (e : Event) (s : State) : (s.emit e).hctrl = s.hctrl := rfl
@[simp] theorem emit_dataMode (e : Event) (s : State) : (s.emit e).dataMode = s.dataMode := rfl
@[simp] theorem emit_initialized (e : Event) (s : State) : (s.emit e).initialized = s.initialized := rfl
@[simp] theorem emit_interruptMode (e : Event) (s : State) : (s.emit e).interruptMode = s.interruptMode := rfl
@[simp] theorem emit_interruptMask (e : Event) (s : State) : (s.emit e).interruptMask = s.interruptMask := rfl
@[simp] theorem emit_phase (e : Event) (s : State) : (s.emit e).phase = s.phase := rfl
@[simp] theorem emit_point (e : Event) (s : State) : (s.emit e).point = s.point := rfl
@[simp] theorem emit_locals (e : Event) (s : State) : (s.emit e).locals = s.locals := rfl
@[simp] theorem emit_saved (e : Event) (s : State) : (s.emit e).saved = s.saved := rfl
@[simp] theorem emit_ret (e : Event) (s : State) : (s.emit e).ret = s.ret := rfl
@[simp] theorem emit_history (e : Event) (s : State) : (s.emit e).history = s.history ++ [e] := rfl
@[simp] theorem emit_mem (e : Event) (s : State) : (s.emit e).mem = s.mem := rfl
@[simp] theorem emit_wireDraws (e : Event) (s : State) : (s.emit e).wireDraws = s.wireDraws := rfl
@[simp] theorem emit_statDraws (e : Event) (s : State) : (s.emit e).statDraws = s.statDraws := rfl
@[simp] theorem emit_yields (e : Event) (s : State) : (s.emit e).yields = s.yields := rfl

@[simp] theorem goto_params (p : Point) (s : State) : (s.goto p).params = s.params := rfl
@[simp] theorem goto_cmds (p : Point) (s : State) : (s.goto p).cmds = s.cmds := rfl
@[simp] theorem goto_cp (p : Point) (s : State) : (s.goto p).cp = s.cp := rfl
@[simp] theorem goto_ctrl (p : Point) (s : State) : (s.goto p).ctrl = s.ctrl := rfl
@[simp] theorem goto_ovf (p : Point) (s : State) : (s.goto p).ovf = s.ovf := rfl
@[simp] theorem goto_cnt (p : Point) (s : State) : (s.goto p).cnt = s.cnt := rfl
@[simp] theorem goto_dr (p : Point) (s : State) : (s.goto p).dr = s.dr := rfl
@[simp] theorem goto_dol (p : Point) (s : State) : (s.goto p).dol = s.dol := rfl
@[simp] theorem goto_ddr (p : Point) (s : State) : (s.goto p).ddr = s.ddr := rfl
@[simp] theorem goto_port (p : Point) (s : State) : (s.goto p).port = s.port := rfl
@[simp] theorem goto_gie (p : Point) (s : State) : (s.goto p).gie = s.gie := rfl
@[simp] theorem goto_hctrl (p : Point) (s : State) : (s.goto p).hctrl = s.hctrl := rfl
@[simp] theorem goto_dataMode (p : Point) (s : State) : (s.goto p).dataMode = s.dataMode := rfl
@[simp] theorem goto_initialized (p : Point) (s : State) : (s.goto p).initialized = s.initialized := rfl
@[simp] theorem goto_interruptMode (p : Point) (s : State) : (s.goto p).interruptMode = s.interruptMode := rfl
@[simp] theorem goto_interruptMask (p : Point) (s : State) : (s.goto p).interruptMask = s.interruptMask := rfl
@[simp] theorem goto_phase (p : Point) (s : State) : (s.goto p).phase = s.phase := rfl
@[simp] theorem goto_point (p : Point) (s : State) : (s.goto p).point = p := rfl
@[simp] theorem goto_locals (p : Point) (s : State) : (s.goto p).locals = s.locals := rfl
@[simp] theorem goto_saved (p : Point) (s : State) : (s.goto p).saved = s.saved := rfl
@[simp] theorem goto_ret (p : Point) (s : State) : (s.goto p).ret = s.ret := rfl
@[simp] theorem goto_history (p : Point) (s : State) : (s.goto p).history = s.history := rfl
@[simp] theorem goto_mem (p : Point) (s : State) : (s.goto p).mem = s.mem := rfl
@[simp] theorem goto_wireDraws (p : Point) (s : State) : (s.goto p).wireDraws = s.wireDraws := rfl
@[simp] theorem goto_statDraws (p : Point) (s : State) : (s.goto p).statDraws = s.statDraws := rfl
@[simp] theorem goto_yields (p : Point) (s : State) : (s.goto p).yields = s.yields := rfl

@[simp] theorem setPhase_params (p : Phase) (s : State) : (s.setPhase p).params = s.params := rfl
@[simp] theorem setPhase_cmds (p : Phase) (s : State) : (s.setPhase p).cmds = s.cmds := rfl
@[simp] theorem setPhase_cp (p : Phase) (s : State) : (s.setPhase p).cp = s.cp := rfl
@[simp] theorem setPhase_ctrl (p : Phase) (s : State) : (s.setPhase p).ctrl = s.ctrl := rfl
@[simp] theorem setPhase_ovf (p : Phase) (s : State) : (s.setPhase p).ovf = s.ovf := rfl
@[simp] theorem setPhase_cnt (p : Phase) (s : State) : (s.setPhase p).cnt = s.cnt := rfl
@[simp] theorem setPhase_dr (p : Phase) (s : State) : (s.setPhase p).dr = s.dr := rfl
@[simp] theorem setPhase_dol (p : Phase) (s : State) : (s.setPhase p).dol = s.dol := rfl
@[simp] theorem setPhase_ddr (p : Phase) (s : State) : (s.setPhase p).ddr = s.ddr := rfl
@[simp] theorem setPhase_port (p : Phase) (s : State) : (s.setPhase p).port = s.port := rfl
@[simp] theorem setPhase_gie (p : Phase) (s : State) : (s.setPhase p).gie = s.gie := rfl
@[simp] theorem setPhase_hctrl (p : Phase) (s : State) : (s.setPhase p).hctrl = s.hctrl := rfl
@[simp] theorem setPhase_dataMode (p : Phase) (s : State) : (s.setPhase p).dataMode = s.dataMode := rfl
@[simp] theorem setPhase_initialized (p : Phase) (s : State) : (s.setPhase p).initialized = s.initialized := rfl
@[simp] theorem setPhase_interruptMode (p : Phase) (s : State) : (s.setPhase p).interruptMode = s.interruptMode := rfl
@[simp] theorem setPhase_interruptMask (p : Phase) (s : State) : (s.setPhase p).interruptMask = s.interruptMask := rfl
@[simp] theorem setPhase_phase (p : Phase) (s : State) : (s.setPhase p).phase = p := rfl
@[simp] theorem setPhase_point (p : Phase) (s : State) : (s.setPhase p).point = s.point := rfl
@[simp] theorem setPhase_locals (p : Phase) (s : State) : (s.setPhase p).locals = s.locals := rfl
@[simp] theorem setPhase_saved (p : Phase) (s : State) : (s.setPhase p).saved = s.saved := rfl
@[simp] theorem setPhase_ret (p : Phase) (s : State) : (s.setPhase p).ret = s.ret := rfl
@[simp] theorem setPhase_history (p : Phase) (s : State) : (s.setPhase p).history = s.history := rfl
@[simp] theorem setPhase_mem (p : Phase) (s : State) : (s.setPhase p).mem = s.mem := rfl
@[simp] theorem setPhase_wireDraws (p : Phase) (s : State) : (s.setPhase p).wireDraws = s.wireDraws := rfl
@[simp] theorem setPhase_statDraws (p : Phase) (s : State) : (s.setPhase p).statDraws = s.statDraws := rfl
@[simp] theorem setPhase_yields (p : Phase) (s : State) : (s.setPhase p).yields = s.yields := rfl

@[simp] theorem setLocals_params (l : Locals) (s : State) : (s.setLocals l).params = s.params := rfl
@[simp] theorem setLocals_cmds (l : Locals) (s : State) : (s.setLocals l).cmds = s.cmds := rfl
@[simp] theorem setLocals_cp (l : Locals) (s : State) : (s.setLocals l).cp = s.cp := rfl
@[simp] theorem setLocals_ctrl (l : Locals) (s : State) : (s.setLocals l).ctrl = s.ctrl := rfl
@[simp] theorem setLocals_ovf (l : Locals) (s : State) : (s.setLocals l).ovf = s.ovf := rfl
@[simp] theorem setLocals_cnt (l : Locals) (s : State) : (s.setLocals l).cnt = s.cnt := rfl
@[simp] theorem setLocals_dr (l : Locals) (s : State) : (s.setLocals l).dr = s.dr := rfl
@[simp] theorem setLocals_dol (l : Locals) (s : State) : (s.setLocals l).dol = s.dol := rfl
@[simp] theorem setLocals_ddr (l : Locals) (s : State) : (s.setLocals l).ddr = s.ddr := rfl
@[simp] theorem setLocals_port (l : Locals) (s : State) : (s.setLocals l).port = s.port := rfl
@[simp] theorem setLocals_gie (l : Locals) (s : State) : (s.setLocals l).gie = s.gie := rfl
@[simp] theorem setLocals_hctrl (l : Locals) (s : State) : (s.setLocals l).hctrl = s.hctrl := rfl
@[simp] theorem setLocals_dataMode (l : Locals) (s : State) : (s.setLocals l).dataMode = s.dataMode := rfl
@[simp] theorem setLocals_initialized (l : Locals) (s : State) : (s.setLocals l).initialized = s.initialized := rfl
@[simp] theorem setLocals_interruptMode (l : Locals) (s : State) : (s.setLocals l).interruptMode = s.interruptMode := rfl
@[simp] theorem setLocals_interruptMask (l : Locals) (s : State) : (s.setLocals l).interruptMask = s.interruptMask := rfl
@[simp] theorem setLocals_phase (l : Locals) (s : State) : (s.setLocals l).phase = s.phase := rfl
@[simp] theorem setLocals_point (l : Locals) (s : State) : (s.setLocals l).point = s.point := rfl
@[simp] theorem setLocals_locals (l : Locals) (s : State) : (s.setLocals l).locals = l := rfl
@[simp] theorem setLocals_saved (l : Locals) (s : State) : (s.setLocals l).saved = s.saved := rfl
@[simp] theorem setLocals_ret (l : Locals) (s : State) : (s.setLocals l).ret = s.ret := rfl
@[simp] theorem setLocals_history (l : Locals) (s : State) : (s.setLocals l).history = s.history := rfl
@[simp] theorem setLocals_mem (l : Locals) (s : State) : (s.setLocals l).mem = s.mem := rfl
@[simp] theorem setLocals_wireDraws (l : Locals) (s : State) : (s.setLocals l).wireDraws = s.wireDraws := rfl
@[simp] theorem setLocals_statDraws (l : Locals) (s : State) : (s.setLocals l).statDraws = s.statDraws := rfl
@[simp] theorem setLocals_yields (l : Locals) (s : State) : (s.setLocals l).yields = s.yields := rfl

@[simp] theorem complete_params (s : State) : (s.complete).params = s.params := rfl
@[simp] theorem complete_cmds (s : State) : (s.complete).cmds = s.cmds := rfl
@[simp] theorem complete_cp (s : State) : (s.complete).cp = s.cp + 1 := rfl
@[simp] theorem complete_ctrl (s : State) : (s.complete).ctrl = s.ctrl := rfl
@[simp] theorem complete_ovf (s : State) : (s.complete).ovf = s.ovf := rfl
@[simp] theorem complete_cnt (s : State) : (s.complete).cnt = s.cnt := rfl
@[simp] theorem complete_dr (s : State) : (s.complete).dr = s.dr := rfl
@[simp] theorem complete_dol (s : State) : (s.complete).dol = s.dol := rfl
@[simp] theorem complete_ddr (s : State) : (s.complete).ddr = s.ddr := rfl
@[simp] theorem complete_port (s : State) : (s.complete).port = s.port := rfl
@[simp] theorem complete_gie (s : State) : (s.complete).gie = s.gie := rfl
@[simp] theorem complete_hctrl (s : State) : (s.complete).hctrl = s.hctrl := rfl
@[simp] theorem complete_dataMode (s : State) : (s.complete).dataMode = s.dataMode := rfl
@[simp] theorem complete_initialized (s : State) : (s.complete).initialized = s.initialized := rfl
@[simp] theorem complete_interruptMode (s : State) : (s.complete).interruptMode = s.interruptMode := rfl
@[simp] theorem complete_interruptMask (s : State) : (s.complete).interruptMask = s.interruptMask := rfl
@[simp] theorem complete_phase (s : State) : (s.complete).phase = s.phase := rfl
@[simp] theorem complete_point (s : State) : (s.complete).point = .idle := rfl
@[simp] theorem complete_locals (s : State) : (s.complete).locals = Locals.cleared := rfl
@[simp] theorem complete_saved (s : State) : (s.complete).saved = s.saved := rfl
@[simp] theorem complete_ret (s : State) : (s.complete).ret = s.ret := rfl
@[simp] theorem complete_history (s : State) : (s.complete).history = s.history := rfl
@[simp] theorem complete_mem (s : State) : (s.complete).mem = s.mem := rfl
@[simp] theorem complete_wireDraws (s : State) : (s.complete).wireDraws = s.wireDraws := rfl
@[simp] theorem complete_statDraws (s : State) : (s.complete).statDraws = s.statDraws := rfl
@[simp] theorem complete_yields (s : State) : (s.complete).yields = s.yields := rfl

@[simp] theorem setRet_params (v : Word) (s : State) : (s.setRet v).params = s.params := rfl
@[simp] theorem setRet_cmds (v : Word) (s : State) : (s.setRet v).cmds = s.cmds := rfl
@[simp] theorem setRet_cp (v : Word) (s : State) : (s.setRet v).cp = s.cp := rfl
@[simp] theorem setRet_ctrl (v : Word) (s : State) : (s.setRet v).ctrl = s.ctrl := rfl
@[simp] theorem setRet_ovf (v : Word) (s : State) : (s.setRet v).ovf = s.ovf := rfl
@[simp] theorem setRet_cnt (v : Word) (s : State) : (s.setRet v).cnt = s.cnt := rfl
@[simp] theorem setRet_dr (v : Word) (s : State) : (s.setRet v).dr = s.dr := rfl
@[simp] theorem setRet_dol (v : Word) (s : State) : (s.setRet v).dol = s.dol := rfl
@[simp] theorem setRet_ddr (v : Word) (s : State) : (s.setRet v).ddr = s.ddr := rfl
@[simp] theorem setRet_port (v : Word) (s : State) : (s.setRet v).port = s.port := rfl
@[simp] theorem setRet_gie (v : Word) (s : State) : (s.setRet v).gie = s.gie := rfl
@[simp] theorem setRet_hctrl (v : Word) (s : State) : (s.setRet v).hctrl = s.hctrl := rfl
@[simp] theorem setRet_dataMode (v : Word) (s : State) : (s.setRet v).dataMode = s.dataMode := rfl
@[simp] theorem setRet_initialized (v : Word) (s : State) : (s.setRet v).initialized = s.initialized := rfl
@[simp] theorem setRet_interruptMode (v : Word) (s : State) : (s.setRet v).interruptMode = s.interruptMode := rfl
@[simp] theorem setRet_interruptMask (v : Word) (s : State) : (s.setRet v).interruptMask = s.interruptMask := rfl
@[simp] theorem setRet_phase (v : Word) (s : State) : (s.setRet v).phase = s.phase := rfl
@[simp] theorem setRet_point (v : Word) (s : State) : (s.setRet v).point = s.point := rfl
@[simp] theorem setRet_locals (v : Word) (s : State) : (s.setRet v).locals = s.locals := rfl
@[simp] theorem setRet_saved (v : Word) (s : State) : (s.setRet v).saved = s.saved := rfl
@[simp] theorem setRet_ret (v : Word) (s : State) : (s.setRet v).ret = some v := rfl
@[simp] theorem setRet_history (v : Word) (s : State) : (s.setRet v).history = s.history ++ [.ret s.cp v] := rfl
@[simp] theorem setRet_mem (v : Word) (s : State) : (s.setRet v).mem = s.mem := rfl
@[simp] theorem setRet_wireDraws (v : Word) (s : State) : (s.setRet v).wireDraws = s.wireDraws := rfl
@[simp] theorem setRet_statDraws (v : Word) (s : State) : (s.setRet v).statDraws = s.statDraws := rfl
@[simp] theorem setRet_yields (v : Word) (s : State) : (s.setRet v).yields = s.yields := rfl

@[simp] theorem critEnter_params (s : State) : (s.critEnter).params = s.params := rfl
@[simp] theorem critEnter_cmds (s : State) : (s.critEnter).cmds = s.cmds := rfl
@[simp] theorem critEnter_cp (s : State) : (s.critEnter).cp = s.cp := rfl
@[simp] theorem critEnter_ctrl (s : State) : (s.critEnter).ctrl = s.ctrl := rfl
@[simp] theorem critEnter_ovf (s : State) : (s.critEnter).ovf = s.ovf := rfl
@[simp] theorem critEnter_cnt (s : State) : (s.critEnter).cnt = s.cnt := rfl
@[simp] theorem critEnter_dr (s : State) : (s.critEnter).dr = s.dr := rfl
@[simp] theorem critEnter_dol (s : State) : (s.critEnter).dol = s.dol := rfl
@[simp] theorem critEnter_ddr (s : State) : (s.critEnter).ddr = s.ddr := rfl
@[simp] theorem critEnter_port (s : State) : (s.critEnter).port = s.port := rfl
@[simp] theorem critEnter_gie (s : State) : (s.critEnter).gie = false := rfl
@[simp] theorem critEnter_hctrl (s : State) : (s.critEnter).hctrl = s.hctrl := rfl
@[simp] theorem critEnter_dataMode (s : State) : (s.critEnter).dataMode = s.dataMode := rfl
@[simp] theorem critEnter_initialized (s : State) : (s.critEnter).initialized = s.initialized := rfl
@[simp] theorem critEnter_interruptMode (s : State) : (s.critEnter).interruptMode = s.interruptMode := rfl
@[simp] theorem critEnter_interruptMask (s : State) : (s.critEnter).interruptMask = s.interruptMask := rfl
@[simp] theorem critEnter_phase (s : State) : (s.critEnter).phase = s.phase := rfl
@[simp] theorem critEnter_point (s : State) : (s.critEnter).point = s.point := rfl
@[simp] theorem critEnter_locals (s : State) : (s.critEnter).locals = s.locals := rfl
@[simp] theorem critEnter_saved (s : State) : (s.critEnter).saved = some s.gie := rfl
@[simp] theorem critEnter_ret (s : State) : (s.critEnter).ret = s.ret := rfl
@[simp] theorem critEnter_history (s : State) : (s.critEnter).history = s.history ++ [.critEnter s.gie] := rfl
@[simp] theorem critEnter_mem (s : State) : (s.critEnter).mem = s.mem := rfl
@[simp] theorem critEnter_wireDraws (s : State) : (s.critEnter).wireDraws = s.wireDraws := rfl
@[simp] theorem critEnter_statDraws (s : State) : (s.critEnter).statDraws = s.statDraws := rfl
@[simp] theorem critEnter_yields (s : State) : (s.critEnter).yields = s.yields := rfl

@[simp] theorem memWrite_params (a : Addr) (v : Byte) (s : State) : (s.memWrite a v).params = s.params := rfl
@[simp] theorem memWrite_cmds (a : Addr) (v : Byte) (s : State) : (s.memWrite a v).cmds = s.cmds := rfl
@[simp] theorem memWrite_cp (a : Addr) (v : Byte) (s : State) : (s.memWrite a v).cp = s.cp := rfl
@[simp] theorem memWrite_ctrl (a : Addr) (v : Byte) (s : State) : (s.memWrite a v).ctrl = s.ctrl := rfl
@[simp] theorem memWrite_ovf (a : Addr) (v : Byte) (s : State) : (s.memWrite a v).ovf = s.ovf := rfl
@[simp] theorem memWrite_cnt (a : Addr) (v : Byte) (s : State) : (s.memWrite a v).cnt = s.cnt := rfl
@[simp] theorem memWrite_dr (a : Addr) (v : Byte) (s : State) : (s.memWrite a v).dr = s.dr := rfl
@[simp] theorem memWrite_dol (a : Addr) (v : Byte) (s : State) : (s.memWrite a v).dol = s.dol := rfl
@[simp] theorem memWrite_ddr (a : Addr) (v : Byte) (s : State) : (s.memWrite a v).ddr = s.ddr := rfl
@[simp] theorem memWrite_port (a : Addr) (v : Byte) (s : State) : (s.memWrite a v).port = s.port := rfl
@[simp] theorem memWrite_gie (a : Addr) (v : Byte) (s : State) : (s.memWrite a v).gie = s.gie := rfl
@[simp] theorem memWrite_hctrl (a : Addr) (v : Byte) (s : State) : (s.memWrite a v).hctrl = s.hctrl := rfl
@[simp] theorem memWrite_dataMode (a : Addr) (v : Byte) (s : State) : (s.memWrite a v).dataMode = s.dataMode := rfl
@[simp] theorem memWrite_initialized (a : Addr) (v : Byte) (s : State) : (s.memWrite a v).initialized = s.initialized := rfl
@[simp] theorem memWrite_interruptMode (a : Addr) (v : Byte) (s : State) : (s.memWrite a v).interruptMode = s.interruptMode := rfl
@[simp] theorem memWrite_interruptMask (a : Addr) (v : Byte) (s : State) : (s.memWrite a v).interruptMask = s.interruptMask := rfl
@[simp] theorem memWrite_phase (a : Addr) (v : Byte) (s : State) : (s.memWrite a v).phase = s.phase := rfl
@[simp] theorem memWrite_point (a : Addr) (v : Byte) (s : State) : (s.memWrite a v).point = s.point := rfl
@[simp] theorem memWrite_locals (a : Addr) (v : Byte) (s : State) : (s.memWrite a v).locals = s.locals := rfl
@[simp] theorem memWrite_saved (a : Addr) (v : Byte) (s : State) : (s.memWrite a v).saved = s.saved := rfl
@[simp] theorem memWrite_ret (a : Addr) (v : Byte) (s : State) : (s.memWrite a v).ret = s.ret := rfl
@[simp] theorem memWrite_history (a : Addr) (v : Byte) (s : State) : (s.memWrite a v).history = s.history ++ [.memW a v] := rfl
@[simp] theorem memWrite_mem (a : Addr) (v : Byte) (s : State) : (s.memWrite a v).mem = memSet s.mem a.toNat v := rfl
@[simp] theorem memWrite_wireDraws (a : Addr) (v : Byte) (s : State) : (s.memWrite a v).wireDraws = s.wireDraws := rfl
@[simp] theorem memWrite_statDraws (a : Addr) (v : Byte) (s : State) : (s.memWrite a v).statDraws = s.statDraws := rfl
@[simp] theorem memWrite_yields (a : Addr) (v : Byte) (s : State) : (s.memWrite a v).yields = s.yields := rfl

@[simp] theorem writeStat_params (v : Byte) (s : State) : (s.writeStat v).params = s.params := rfl
@[simp] theorem writeStat_cmds (v : Byte) (s : State) : (s.writeStat v).cmds = s.cmds := rfl
@[simp] theorem writeStat_cp (v : Byte) (s : State) : (s.writeStat v).cp = s.cp := rfl
@[simp] theorem writeStat_ctrl (v : Byte) (s : State) : (s.writeStat v).ctrl = s.ctrl := rfl
@[simp] theorem writeStat_ovf (v : Byte) (s : State) : (s.writeStat v).ovf = (s.ovf && !v.getLsbD 6) := rfl
@[simp] theorem writeStat_cnt (v : Byte) (s : State) : (s.writeStat v).cnt = v.extractLsb' 0 4 := rfl
@[simp] theorem writeStat_dr (v : Byte) (s : State) : (s.writeStat v).dr = s.dr := rfl
@[simp] theorem writeStat_dol (v : Byte) (s : State) : (s.writeStat v).dol = s.dol := rfl
@[simp] theorem writeStat_ddr (v : Byte) (s : State) : (s.writeStat v).ddr = s.ddr := rfl
@[simp] theorem writeStat_port (v : Byte) (s : State) : (s.writeStat v).port = s.port := rfl
@[simp] theorem writeStat_gie (v : Byte) (s : State) : (s.writeStat v).gie = s.gie := rfl
@[simp] theorem writeStat_hctrl (v : Byte) (s : State) : (s.writeStat v).hctrl = s.hctrl := rfl
@[simp] theorem writeStat_dataMode (v : Byte) (s : State) : (s.writeStat v).dataMode = s.dataMode := rfl
@[simp] theorem writeStat_initialized (v : Byte) (s : State) : (s.writeStat v).initialized = s.initialized := rfl
@[simp] theorem writeStat_interruptMode (v : Byte) (s : State) : (s.writeStat v).interruptMode = s.interruptMode := rfl
@[simp] theorem writeStat_interruptMask (v : Byte) (s : State) : (s.writeStat v).interruptMask = s.interruptMask := rfl
@[simp] theorem writeStat_phase (v : Byte) (s : State) : (s.writeStat v).phase = s.phase := rfl
@[simp] theorem writeStat_point (v : Byte) (s : State) : (s.writeStat v).point = s.point := rfl
@[simp] theorem writeStat_locals (v : Byte) (s : State) : (s.writeStat v).locals = s.locals := rfl
@[simp] theorem writeStat_saved (v : Byte) (s : State) : (s.writeStat v).saved = s.saved := rfl
@[simp] theorem writeStat_ret (v : Byte) (s : State) : (s.writeStat v).ret = s.ret := rfl
@[simp] theorem writeStat_history (v : Byte) (s : State) : (s.writeStat v).history = s.history := rfl
@[simp] theorem writeStat_mem (v : Byte) (s : State) : (s.writeStat v).mem = s.mem := rfl
@[simp] theorem writeStat_wireDraws (v : Byte) (s : State) : (s.writeStat v).wireDraws = s.wireDraws := rfl
@[simp] theorem writeStat_statDraws (v : Byte) (s : State) : (s.writeStat v).statDraws = s.statDraws := rfl
@[simp] theorem writeStat_yields (v : Byte) (s : State) : (s.writeStat v).yields = s.yields := rfl

@[simp] theorem toggleSck_params (s : State) : (s.toggleSck).params = s.params := rfl
@[simp] theorem toggleSck_cmds (s : State) : (s.toggleSck).cmds = s.cmds := rfl
@[simp] theorem toggleSck_cp (s : State) : (s.toggleSck).cp = s.cp := rfl
@[simp] theorem toggleSck_ctrl (s : State) : (s.toggleSck).ctrl = s.ctrl := rfl
@[simp] theorem toggleSck_ovf (s : State) : (s.toggleSck).ovf = s.ovf := rfl
@[simp] theorem toggleSck_cnt (s : State) : (s.toggleSck).cnt = s.cnt := rfl
@[simp] theorem toggleSck_dr (s : State) : (s.toggleSck).dr = s.dr := rfl
@[simp] theorem toggleSck_dol (s : State) : (s.toggleSck).dol = s.dol := rfl
@[simp] theorem toggleSck_ddr (s : State) : (s.toggleSck).ddr = s.ddr := rfl
@[simp] theorem toggleSck_port (s : State) : (s.toggleSck).port = s.port ^^^ bitMask s.params.pinSck := rfl
@[simp] theorem toggleSck_gie (s : State) : (s.toggleSck).gie = s.gie := rfl
@[simp] theorem toggleSck_hctrl (s : State) : (s.toggleSck).hctrl = s.hctrl := rfl
@[simp] theorem toggleSck_dataMode (s : State) : (s.toggleSck).dataMode = s.dataMode := rfl
@[simp] theorem toggleSck_initialized (s : State) : (s.toggleSck).initialized = s.initialized := rfl
@[simp] theorem toggleSck_interruptMode (s : State) : (s.toggleSck).interruptMode = s.interruptMode := rfl
@[simp] theorem toggleSck_interruptMask (s : State) : (s.toggleSck).interruptMask = s.interruptMask := rfl
@[simp] theorem toggleSck_phase (s : State) : (s.toggleSck).phase = s.phase := rfl
@[simp] theorem toggleSck_point (s : State) : (s.toggleSck).point = s.point := rfl
@[simp] theorem toggleSck_locals (s : State) : (s.toggleSck).locals = s.locals := rfl
@[simp] theorem toggleSck_saved (s : State) : (s.toggleSck).saved = s.saved := rfl
@[simp] theorem toggleSck_ret (s : State) : (s.toggleSck).ret = s.ret := rfl
@[simp] theorem toggleSck_history (s : State) : (s.toggleSck).history = s.history := rfl
@[simp] theorem toggleSck_mem (s : State) : (s.toggleSck).mem = s.mem := rfl
@[simp] theorem toggleSck_wireDraws (s : State) : (s.toggleSck).wireDraws = s.wireDraws := rfl
@[simp] theorem toggleSck_statDraws (s : State) : (s.toggleSck).statDraws = s.statDraws := rfl
@[simp] theorem toggleSck_yields (s : State) : (s.toggleSck).yields = s.yields := rfl

@[simp] theorem setupEdge_params (s : State) : (s.setupEdge).params = s.params := rfl
@[simp] theorem setupEdge_cmds (s : State) : (s.setupEdge).cmds = s.cmds := rfl
@[simp] theorem setupEdge_cp (s : State) : (s.setupEdge).cp = s.cp := rfl
@[simp] theorem setupEdge_ctrl (s : State) : (s.setupEdge).ctrl = s.ctrl := rfl
@[simp] theorem setupEdge_ovf (s : State) : (s.setupEdge).ovf = s.ovf := rfl
@[simp] theorem setupEdge_cnt (s : State) : (s.setupEdge).cnt = s.cnt := rfl
@[simp] theorem setupEdge_dr (s : State) : (s.setupEdge).dr = s.dr := rfl
@[simp] theorem setupEdge_dol (s : State) : (s.setupEdge).dol = s.dr.getLsbD 7 := rfl
@[simp] theorem setupEdge_ddr (s : State) : (s.setupEdge).ddr = s.ddr := rfl
@[simp] theorem setupEdge_port (s : State) : (s.setupEdge).port = s.port := rfl
@[simp] theorem setupEdge_gie (s : State) : (s.setupEdge).gie = s.gie := rfl
@[simp] theorem setupEdge_hctrl (s : State) : (s.setupEdge).hctrl = s.hctrl := rfl
@[simp] theorem setupEdge_dataMode (s : State) : (s.setupEdge).dataMode = s.dataMode := rfl
@[simp] theorem setupEdge_initialized (s : State) : (s.setupEdge).initialized = s.initialized := rfl
@[simp] theorem setupEdge_interruptMode (s : State) : (s.setupEdge).interruptMode = s.interruptMode := rfl
@[simp] theorem setupEdge_interruptMask (s : State) : (s.setupEdge).interruptMask = s.interruptMask := rfl
@[simp] theorem setupEdge_phase (s : State) : (s.setupEdge).phase = s.phase := rfl
@[simp] theorem setupEdge_point (s : State) : (s.setupEdge).point = s.point := rfl
@[simp] theorem setupEdge_locals (s : State) : (s.setupEdge).locals = s.locals := rfl
@[simp] theorem setupEdge_saved (s : State) : (s.setupEdge).saved = s.saved := rfl
@[simp] theorem setupEdge_ret (s : State) : (s.setupEdge).ret = s.ret := rfl
@[simp] theorem setupEdge_history (s : State) : (s.setupEdge).history = s.history ++ [.edge s.sck (s.dr.getLsbD 7) none] := rfl
@[simp] theorem setupEdge_mem (s : State) : (s.setupEdge).mem = s.mem := rfl
@[simp] theorem setupEdge_wireDraws (s : State) : (s.setupEdge).wireDraws = s.wireDraws := rfl
@[simp] theorem setupEdge_statDraws (s : State) : (s.setupEdge).statDraws = s.statDraws := rfl
@[simp] theorem setupEdge_yields (s : State) : (s.setupEdge).yields = s.yields := rfl

@[simp] theorem relatch_params (s : State) : (s.relatch).params = s.params := by
  unfold State.relatch; repeat' split
  all_goals rfl
@[simp] theorem relatch_cmds (s : State) : (s.relatch).cmds = s.cmds := by
  unfold State.relatch; repeat' split
  all_goals rfl
@[simp] theorem relatch_cp (s : State) : (s.relatch).cp = s.cp := by
  unfold State.relatch; repeat' split
  all_goals rfl
@[simp] theorem relatch_ctrl (s : State) : (s.relatch).ctrl = s.ctrl := by
  unfold State.relatch; repeat' split
  all_goals rfl
@[simp] theorem relatch_ovf (s : State) : (s.relatch).ovf = s.ovf := by
  unfold State.relatch; repeat' split
  all_goals rfl
@[simp] theorem relatch_cnt (s : State) : (s.relatch).cnt = s.cnt := by
  unfold State.relatch; repeat' split
  all_goals rfl
@[simp] theorem relatch_dr (s : State) : (s.relatch).dr = s.dr := by
  unfold State.relatch; repeat' split
  all_goals rfl
@[simp] theorem relatch_ddr (s : State) : (s.relatch).ddr = s.ddr := by
  unfold State.relatch; repeat' split
  all_goals rfl
@[simp] theorem relatch_port (s : State) : (s.relatch).port = s.port := by
  unfold State.relatch; repeat' split
  all_goals rfl
@[simp] theorem relatch_gie (s : State) : (s.relatch).gie = s.gie := by
  unfold State.relatch; repeat' split
  all_goals rfl
@[simp] theorem relatch_hctrl (s : State) : (s.relatch).hctrl = s.hctrl := by
  unfold State.relatch; repeat' split
  all_goals rfl
@[simp] theorem relatch_dataMode (s : State) : (s.relatch).dataMode = s.dataMode := by
  unfold State.relatch; repeat' split
  all_goals rfl
@[simp] theorem relatch_initialized (s : State) : (s.relatch).initialized = s.initialized := by
  unfold State.relatch; repeat' split
  all_goals rfl
@[simp] theorem relatch_interruptMode (s : State) : (s.relatch).interruptMode = s.interruptMode := by
  unfold State.relatch; repeat' split
  all_goals rfl
@[simp] theorem relatch_interruptMask (s : State) : (s.relatch).interruptMask = s.interruptMask := by
  unfold State.relatch; repeat' split
  all_goals rfl
@[simp] theorem relatch_phase (s : State) : (s.relatch).phase = s.phase := by
  unfold State.relatch; repeat' split
  all_goals rfl
@[simp] theorem relatch_point (s : State) : (s.relatch).point = s.point := by
  unfold State.relatch; repeat' split
  all_goals rfl
@[simp] theorem relatch_locals (s : State) : (s.relatch).locals = s.locals := by
  unfold State.relatch; repeat' split
  all_goals rfl
@[simp] theorem relatch_saved (s : State) : (s.relatch).saved = s.saved := by
  unfold State.relatch; repeat' split
  all_goals rfl
@[simp] theorem relatch_ret (s : State) : (s.relatch).ret = s.ret := by
  unfold State.relatch; repeat' split
  all_goals rfl
@[simp] theorem relatch_history (s : State) : (s.relatch).history = s.history := by
  unfold State.relatch; repeat' split
  all_goals rfl
@[simp] theorem relatch_mem (s : State) : (s.relatch).mem = s.mem := by
  unfold State.relatch; repeat' split
  all_goals rfl
@[simp] theorem relatch_wireDraws (s : State) : (s.relatch).wireDraws = s.wireDraws := by
  unfold State.relatch; repeat' split
  all_goals rfl
@[simp] theorem relatch_statDraws (s : State) : (s.relatch).statDraws = s.statDraws := by
  unfold State.relatch; repeat' split
  all_goals rfl
@[simp] theorem relatch_yields (s : State) : (s.relatch).yields = s.yields := by
  unfold State.relatch; repeat' split
  all_goals rfl

@[simp] theorem countStrobe_params (s : State) : (s.countStrobe).params = s.params := by
  unfold State.countStrobe; split <;> rfl
@[simp] theorem countStrobe_cmds (s : State) : (s.countStrobe).cmds = s.cmds := by
  unfold State.countStrobe; split <;> rfl
@[simp] theorem countStrobe_cp (s : State) : (s.countStrobe).cp = s.cp := by
  unfold State.countStrobe; split <;> rfl
@[simp] theorem countStrobe_ctrl (s : State) : (s.countStrobe).ctrl = s.ctrl := by
  unfold State.countStrobe; split <;> rfl
@[simp] theorem countStrobe_dr (s : State) : (s.countStrobe).dr = s.dr := by
  unfold State.countStrobe; split <;> rfl
@[simp] theorem countStrobe_dol (s : State) : (s.countStrobe).dol = s.dol := by
  unfold State.countStrobe; split <;> rfl
@[simp] theorem countStrobe_ddr (s : State) : (s.countStrobe).ddr = s.ddr := by
  unfold State.countStrobe; split <;> rfl
@[simp] theorem countStrobe_port (s : State) : (s.countStrobe).port = s.port := by
  unfold State.countStrobe; split <;> rfl
@[simp] theorem countStrobe_gie (s : State) : (s.countStrobe).gie = s.gie := by
  unfold State.countStrobe; split <;> rfl
@[simp] theorem countStrobe_hctrl (s : State) : (s.countStrobe).hctrl = s.hctrl := by
  unfold State.countStrobe; split <;> rfl
@[simp] theorem countStrobe_dataMode (s : State) : (s.countStrobe).dataMode = s.dataMode := by
  unfold State.countStrobe; split <;> rfl
@[simp] theorem countStrobe_initialized (s : State) : (s.countStrobe).initialized = s.initialized := by
  unfold State.countStrobe; split <;> rfl
@[simp] theorem countStrobe_interruptMode (s : State) : (s.countStrobe).interruptMode = s.interruptMode := by
  unfold State.countStrobe; split <;> rfl
@[simp] theorem countStrobe_interruptMask (s : State) : (s.countStrobe).interruptMask = s.interruptMask := by
  unfold State.countStrobe; split <;> rfl
@[simp] theorem countStrobe_phase (s : State) : (s.countStrobe).phase = s.phase := by
  unfold State.countStrobe; split <;> rfl
@[simp] theorem countStrobe_point (s : State) : (s.countStrobe).point = s.point := by
  unfold State.countStrobe; split <;> rfl
@[simp] theorem countStrobe_locals (s : State) : (s.countStrobe).locals = s.locals := by
  unfold State.countStrobe; split <;> rfl
@[simp] theorem countStrobe_saved (s : State) : (s.countStrobe).saved = s.saved := by
  unfold State.countStrobe; split <;> rfl
@[simp] theorem countStrobe_ret (s : State) : (s.countStrobe).ret = s.ret := by
  unfold State.countStrobe; split <;> rfl
@[simp] theorem countStrobe_history (s : State) : (s.countStrobe).history = s.history := by
  unfold State.countStrobe; split <;> rfl
@[simp] theorem countStrobe_mem (s : State) : (s.countStrobe).mem = s.mem := by
  unfold State.countStrobe; split <;> rfl
@[simp] theorem countStrobe_wireDraws (s : State) : (s.countStrobe).wireDraws = s.wireDraws := by
  unfold State.countStrobe; split <;> rfl
@[simp] theorem countStrobe_statDraws (s : State) : (s.countStrobe).statDraws = s.statDraws := by
  unfold State.countStrobe; split <;> rfl
@[simp] theorem countStrobe_yields (s : State) : (s.countStrobe).yields = s.yields := by
  unfold State.countStrobe; split <;> rfl

@[simp] theorem passDraw_params (s : State) : (s.passDraw).params = s.params := by
  unfold State.passDraw; repeat' split
  all_goals rfl
@[simp] theorem passDraw_cmds (s : State) : (s.passDraw).cmds = s.cmds := by
  unfold State.passDraw; repeat' split
  all_goals rfl
@[simp] theorem passDraw_cp (s : State) : (s.passDraw).cp = s.cp := by
  unfold State.passDraw; repeat' split
  all_goals rfl
@[simp] theorem passDraw_ctrl (s : State) : (s.passDraw).ctrl = s.ctrl := by
  unfold State.passDraw; repeat' split
  all_goals rfl
@[simp] theorem passDraw_ovf (s : State) : (s.passDraw).ovf = s.ovf := by
  unfold State.passDraw; repeat' split
  all_goals rfl
@[simp] theorem passDraw_cnt (s : State) : (s.passDraw).cnt = s.cnt := by
  unfold State.passDraw; repeat' split
  all_goals rfl
@[simp] theorem passDraw_dr (s : State) : (s.passDraw).dr = s.dr := by
  unfold State.passDraw; repeat' split
  all_goals rfl
@[simp] theorem passDraw_dol (s : State) : (s.passDraw).dol = s.dol := by
  unfold State.passDraw; repeat' split
  all_goals rfl
@[simp] theorem passDraw_ddr (s : State) : (s.passDraw).ddr = s.ddr := by
  unfold State.passDraw; repeat' split
  all_goals rfl
@[simp] theorem passDraw_port (s : State) : (s.passDraw).port = s.port := by
  unfold State.passDraw; repeat' split
  all_goals rfl
@[simp] theorem passDraw_gie (s : State) : (s.passDraw).gie = s.gie := by
  unfold State.passDraw; repeat' split
  all_goals rfl
@[simp] theorem passDraw_hctrl (s : State) : (s.passDraw).hctrl = s.hctrl := by
  unfold State.passDraw; repeat' split
  all_goals rfl
@[simp] theorem passDraw_dataMode (s : State) : (s.passDraw).dataMode = s.dataMode := by
  unfold State.passDraw; repeat' split
  all_goals rfl
@[simp] theorem passDraw_initialized (s : State) : (s.passDraw).initialized = s.initialized := by
  unfold State.passDraw; repeat' split
  all_goals rfl
@[simp] theorem passDraw_interruptMode (s : State) : (s.passDraw).interruptMode = s.interruptMode := by
  unfold State.passDraw; repeat' split
  all_goals rfl
@[simp] theorem passDraw_interruptMask (s : State) : (s.passDraw).interruptMask = s.interruptMask := by
  unfold State.passDraw; repeat' split
  all_goals rfl
@[simp] theorem passDraw_phase (s : State) : (s.passDraw).phase = s.phase := by
  unfold State.passDraw; repeat' split
  all_goals rfl
@[simp] theorem passDraw_point (s : State) : (s.passDraw).point = s.point := by
  unfold State.passDraw; repeat' split
  all_goals rfl
@[simp] theorem passDraw_locals (s : State) : (s.passDraw).locals = s.locals := by
  unfold State.passDraw; repeat' split
  all_goals rfl
@[simp] theorem passDraw_saved (s : State) : (s.passDraw).saved = s.saved := by
  unfold State.passDraw; repeat' split
  all_goals rfl
@[simp] theorem passDraw_ret (s : State) : (s.passDraw).ret = s.ret := by
  unfold State.passDraw; repeat' split
  all_goals rfl
@[simp] theorem passDraw_history (s : State) : (s.passDraw).history = s.history := by
  unfold State.passDraw; repeat' split
  all_goals rfl
@[simp] theorem passDraw_mem (s : State) : (s.passDraw).mem = s.mem := by
  unfold State.passDraw; repeat' split
  all_goals rfl
@[simp] theorem passDraw_statDraws (s : State) : (s.passDraw).statDraws = s.statDraws := by
  unfold State.passDraw; repeat' split
  all_goals rfl
@[simp] theorem passDraw_yields (s : State) : (s.passDraw).yields = s.yields := by
  unfold State.passDraw; repeat' split
  all_goals rfl

@[simp] theorem sampleEdge_params (s : State) : (s.sampleEdge).params = s.params := by
  simp [State.sampleEdge]
@[simp] theorem sampleEdge_cmds (s : State) : (s.sampleEdge).cmds = s.cmds := by
  simp [State.sampleEdge]
@[simp] theorem sampleEdge_cp (s : State) : (s.sampleEdge).cp = s.cp := by
  simp [State.sampleEdge]
@[simp] theorem sampleEdge_ctrl (s : State) : (s.sampleEdge).ctrl = s.ctrl := by
  simp [State.sampleEdge]
@[simp] theorem sampleEdge_ovf (s : State) : (s.sampleEdge).ovf = s.ovf := by
  simp [State.sampleEdge]
@[simp] theorem sampleEdge_cnt (s : State) : (s.sampleEdge).cnt = s.cnt := by
  simp [State.sampleEdge]
@[simp] theorem sampleEdge_dol (s : State) : (s.sampleEdge).dol = s.dol := by
  simp [State.sampleEdge]
@[simp] theorem sampleEdge_ddr (s : State) : (s.sampleEdge).ddr = s.ddr := by
  simp [State.sampleEdge]
@[simp] theorem sampleEdge_port (s : State) : (s.sampleEdge).port = s.port := by
  simp [State.sampleEdge]
@[simp] theorem sampleEdge_gie (s : State) : (s.sampleEdge).gie = s.gie := by
  simp [State.sampleEdge]
@[simp] theorem sampleEdge_hctrl (s : State) : (s.sampleEdge).hctrl = s.hctrl := by
  simp [State.sampleEdge]
@[simp] theorem sampleEdge_dataMode (s : State) : (s.sampleEdge).dataMode = s.dataMode := by
  simp [State.sampleEdge]
@[simp] theorem sampleEdge_initialized (s : State) : (s.sampleEdge).initialized = s.initialized := by
  simp [State.sampleEdge]
@[simp] theorem sampleEdge_interruptMode (s : State) : (s.sampleEdge).interruptMode = s.interruptMode := by
  simp [State.sampleEdge]
@[simp] theorem sampleEdge_interruptMask (s : State) : (s.sampleEdge).interruptMask = s.interruptMask := by
  simp [State.sampleEdge]
@[simp] theorem sampleEdge_phase (s : State) : (s.sampleEdge).phase = s.phase := by
  simp [State.sampleEdge]
@[simp] theorem sampleEdge_point (s : State) : (s.sampleEdge).point = s.point := by
  simp [State.sampleEdge]
@[simp] theorem sampleEdge_locals (s : State) : (s.sampleEdge).locals = s.locals := by
  simp [State.sampleEdge]
@[simp] theorem sampleEdge_saved (s : State) : (s.sampleEdge).saved = s.saved := by
  simp [State.sampleEdge]
@[simp] theorem sampleEdge_ret (s : State) : (s.sampleEdge).ret = s.ret := by
  simp [State.sampleEdge]
@[simp] theorem sampleEdge_mem (s : State) : (s.sampleEdge).mem = s.mem := by
  simp [State.sampleEdge]
@[simp] theorem sampleEdge_statDraws (s : State) : (s.sampleEdge).statDraws = s.statDraws := by
  simp [State.sampleEdge]
@[simp] theorem sampleEdge_yields (s : State) : (s.sampleEdge).yields = s.yields := by
  simp [State.sampleEdge]

@[simp] theorem edge_params (s : State) : (s.edge).params = s.params := by
  unfold State.edge; split <;> simp
@[simp] theorem edge_cmds (s : State) : (s.edge).cmds = s.cmds := by
  unfold State.edge; split <;> simp
@[simp] theorem edge_cp (s : State) : (s.edge).cp = s.cp := by
  unfold State.edge; split <;> simp
@[simp] theorem edge_ctrl (s : State) : (s.edge).ctrl = s.ctrl := by
  unfold State.edge; split <;> simp
@[simp] theorem edge_ovf (s : State) : (s.edge).ovf = s.ovf := by
  unfold State.edge; split <;> simp
@[simp] theorem edge_cnt (s : State) : (s.edge).cnt = s.cnt := by
  unfold State.edge; split <;> simp
@[simp] theorem edge_ddr (s : State) : (s.edge).ddr = s.ddr := by
  unfold State.edge; split <;> simp
@[simp] theorem edge_port (s : State) : (s.edge).port = s.port := by
  unfold State.edge; split <;> simp
@[simp] theorem edge_gie (s : State) : (s.edge).gie = s.gie := by
  unfold State.edge; split <;> simp
@[simp] theorem edge_hctrl (s : State) : (s.edge).hctrl = s.hctrl := by
  unfold State.edge; split <;> simp
@[simp] theorem edge_dataMode (s : State) : (s.edge).dataMode = s.dataMode := by
  unfold State.edge; split <;> simp
@[simp] theorem edge_initialized (s : State) : (s.edge).initialized = s.initialized := by
  unfold State.edge; split <;> simp
@[simp] theorem edge_interruptMode (s : State) : (s.edge).interruptMode = s.interruptMode := by
  unfold State.edge; split <;> simp
@[simp] theorem edge_interruptMask (s : State) : (s.edge).interruptMask = s.interruptMask := by
  unfold State.edge; split <;> simp
@[simp] theorem edge_phase (s : State) : (s.edge).phase = s.phase := by
  unfold State.edge; split <;> simp
@[simp] theorem edge_point (s : State) : (s.edge).point = s.point := by
  unfold State.edge; split <;> simp
@[simp] theorem edge_locals (s : State) : (s.edge).locals = s.locals := by
  unfold State.edge; split <;> simp
@[simp] theorem edge_saved (s : State) : (s.edge).saved = s.saved := by
  unfold State.edge; split <;> simp
@[simp] theorem edge_ret (s : State) : (s.edge).ret = s.ret := by
  unfold State.edge; split <;> simp
@[simp] theorem edge_mem (s : State) : (s.edge).mem = s.mem := by
  unfold State.edge; split <;> simp
@[simp] theorem edge_statDraws (s : State) : (s.edge).statDraws = s.statDraws := by
  unfold State.edge; split <;> simp
@[simp] theorem edge_yields (s : State) : (s.edge).yields = s.yields := by
  unfold State.edge; split <;> simp

@[simp] theorem strobe_params (s : State) : (s.strobe).params = s.params := by
  simp [State.strobe]
@[simp] theorem strobe_cmds (s : State) : (s.strobe).cmds = s.cmds := by
  simp [State.strobe]
@[simp] theorem strobe_cp (s : State) : (s.strobe).cp = s.cp := by
  simp [State.strobe]
@[simp] theorem strobe_ctrl (s : State) : (s.strobe).ctrl = s.ctrl := by
  simp [State.strobe]
@[simp] theorem strobe_ddr (s : State) : (s.strobe).ddr = s.ddr := by
  simp [State.strobe]
@[simp] theorem strobe_gie (s : State) : (s.strobe).gie = s.gie := by
  simp [State.strobe]
@[simp] theorem strobe_hctrl (s : State) : (s.strobe).hctrl = s.hctrl := by
  simp [State.strobe]
@[simp] theorem strobe_dataMode (s : State) : (s.strobe).dataMode = s.dataMode := by
  simp [State.strobe]
@[simp] theorem strobe_initialized (s : State) : (s.strobe).initialized = s.initialized := by
  simp [State.strobe]
@[simp] theorem strobe_interruptMode (s : State) : (s.strobe).interruptMode = s.interruptMode := by
  simp [State.strobe]
@[simp] theorem strobe_interruptMask (s : State) : (s.strobe).interruptMask = s.interruptMask := by
  simp [State.strobe]
@[simp] theorem strobe_phase (s : State) : (s.strobe).phase = s.phase := by
  simp [State.strobe]
@[simp] theorem strobe_point (s : State) : (s.strobe).point = s.point := by
  simp [State.strobe]
@[simp] theorem strobe_locals (s : State) : (s.strobe).locals = s.locals := by
  simp [State.strobe]
@[simp] theorem strobe_saved (s : State) : (s.strobe).saved = s.saved := by
  simp [State.strobe]
@[simp] theorem strobe_ret (s : State) : (s.strobe).ret = s.ret := by
  simp [State.strobe]
@[simp] theorem strobe_mem (s : State) : (s.strobe).mem = s.mem := by
  simp [State.strobe]
@[simp] theorem strobe_statDraws (s : State) : (s.strobe).statDraws = s.statDraws := by
  simp [State.strobe]
@[simp] theorem strobe_yields (s : State) : (s.strobe).yields = s.yields := by
  simp [State.strobe]

@[simp] theorem passYield_params (s : State) : (s.passYield).params = s.params := by
  unfold State.passYield; split <;> rfl
@[simp] theorem passYield_cmds (s : State) : (s.passYield).cmds = s.cmds := by
  unfold State.passYield; split <;> rfl
@[simp] theorem passYield_cp (s : State) : (s.passYield).cp = s.cp := by
  unfold State.passYield; split <;> rfl
@[simp] theorem passYield_ctrl (s : State) : (s.passYield).ctrl = s.ctrl := by
  unfold State.passYield; split <;> rfl
@[simp] theorem passYield_ovf (s : State) : (s.passYield).ovf = s.ovf := by
  unfold State.passYield; split <;> rfl
@[simp] theorem passYield_cnt (s : State) : (s.passYield).cnt = s.cnt := by
  unfold State.passYield; split <;> rfl
@[simp] theorem passYield_dr (s : State) : (s.passYield).dr = s.dr := by
  unfold State.passYield; split <;> rfl
@[simp] theorem passYield_dol (s : State) : (s.passYield).dol = s.dol := by
  unfold State.passYield; split <;> rfl
@[simp] theorem passYield_ddr (s : State) : (s.passYield).ddr = s.ddr := by
  unfold State.passYield; split <;> rfl
@[simp] theorem passYield_port (s : State) : (s.passYield).port = s.port := by
  unfold State.passYield; split <;> rfl
@[simp] theorem passYield_gie (s : State) : (s.passYield).gie = s.gie := by
  unfold State.passYield; split <;> rfl
@[simp] theorem passYield_hctrl (s : State) : (s.passYield).hctrl = s.hctrl := by
  unfold State.passYield; split <;> rfl
@[simp] theorem passYield_dataMode (s : State) : (s.passYield).dataMode = s.dataMode := by
  unfold State.passYield; split <;> rfl
@[simp] theorem passYield_initialized (s : State) : (s.passYield).initialized = s.initialized := by
  unfold State.passYield; split <;> rfl
@[simp] theorem passYield_interruptMode (s : State) : (s.passYield).interruptMode = s.interruptMode := by
  unfold State.passYield; split <;> rfl
@[simp] theorem passYield_interruptMask (s : State) : (s.passYield).interruptMask = s.interruptMask := by
  unfold State.passYield; split <;> rfl
@[simp] theorem passYield_phase (s : State) : (s.passYield).phase = s.phase := by
  unfold State.passYield; split <;> rfl
@[simp] theorem passYield_point (s : State) : (s.passYield).point = s.point := by
  unfold State.passYield; split <;> rfl
@[simp] theorem passYield_locals (s : State) : (s.passYield).locals = s.locals := by
  unfold State.passYield; split <;> rfl
@[simp] theorem passYield_saved (s : State) : (s.passYield).saved = s.saved := by
  unfold State.passYield; split <;> rfl
@[simp] theorem passYield_ret (s : State) : (s.passYield).ret = s.ret := by
  unfold State.passYield; split <;> rfl
@[simp] theorem passYield_mem (s : State) : (s.passYield).mem = s.mem := by
  unfold State.passYield; split <;> rfl
@[simp] theorem passYield_wireDraws (s : State) : (s.passYield).wireDraws = s.wireDraws := by
  unfold State.passYield; split <;> rfl
@[simp] theorem passYield_statDraws (s : State) : (s.passYield).statDraws = s.statDraws := by
  unfold State.passYield; split <;> rfl

@[simp] theorem noteRead_params (r : Reg) (s : State) : (s.noteRead r).params = s.params := by
  cases r <;> rfl
@[simp] theorem noteRead_cmds (r : Reg) (s : State) : (s.noteRead r).cmds = s.cmds := by
  cases r <;> rfl
@[simp] theorem noteRead_cp (r : Reg) (s : State) : (s.noteRead r).cp = s.cp := by
  cases r <;> rfl
@[simp] theorem noteRead_ctrl (r : Reg) (s : State) : (s.noteRead r).ctrl = s.ctrl := by
  cases r <;> rfl
@[simp] theorem noteRead_ovf (r : Reg) (s : State) : (s.noteRead r).ovf = s.ovf := by
  cases r <;> rfl
@[simp] theorem noteRead_cnt (r : Reg) (s : State) : (s.noteRead r).cnt = s.cnt := by
  cases r <;> rfl
@[simp] theorem noteRead_dr (r : Reg) (s : State) : (s.noteRead r).dr = s.dr := by
  cases r <;> rfl
@[simp] theorem noteRead_dol (r : Reg) (s : State) : (s.noteRead r).dol = s.dol := by
  cases r <;> rfl
@[simp] theorem noteRead_ddr (r : Reg) (s : State) : (s.noteRead r).ddr = s.ddr := by
  cases r <;> rfl
@[simp] theorem noteRead_port (r : Reg) (s : State) : (s.noteRead r).port = s.port := by
  cases r <;> rfl
@[simp] theorem noteRead_gie (r : Reg) (s : State) : (s.noteRead r).gie = s.gie := by
  cases r <;> rfl
@[simp] theorem noteRead_hctrl (r : Reg) (s : State) : (s.noteRead r).hctrl = s.hctrl := by
  cases r <;> rfl
@[simp] theorem noteRead_dataMode (r : Reg) (s : State) : (s.noteRead r).dataMode = s.dataMode := by
  cases r <;> rfl
@[simp] theorem noteRead_initialized (r : Reg) (s : State) : (s.noteRead r).initialized = s.initialized := by
  cases r <;> rfl
@[simp] theorem noteRead_interruptMode (r : Reg) (s : State) : (s.noteRead r).interruptMode = s.interruptMode := by
  cases r <;> rfl
@[simp] theorem noteRead_interruptMask (r : Reg) (s : State) : (s.noteRead r).interruptMask = s.interruptMask := by
  cases r <;> rfl
@[simp] theorem noteRead_phase (r : Reg) (s : State) : (s.noteRead r).phase = s.phase := by
  cases r <;> rfl
@[simp] theorem noteRead_point (r : Reg) (s : State) : (s.noteRead r).point = s.point := by
  cases r <;> rfl
@[simp] theorem noteRead_locals (r : Reg) (s : State) : (s.noteRead r).locals = s.locals := by
  cases r <;> rfl
@[simp] theorem noteRead_saved (r : Reg) (s : State) : (s.noteRead r).saved = s.saved := by
  cases r <;> rfl
@[simp] theorem noteRead_ret (r : Reg) (s : State) : (s.noteRead r).ret = s.ret := by
  cases r <;> rfl
@[simp] theorem noteRead_mem (r : Reg) (s : State) : (s.noteRead r).mem = s.mem := by
  cases r <;> rfl
@[simp] theorem noteRead_wireDraws (r : Reg) (s : State) : (s.noteRead r).wireDraws = s.wireDraws := by
  cases r <;> rfl
@[simp] theorem noteRead_yields (r : Reg) (s : State) : (s.noteRead r).yields = s.yields := by
  cases r <;> rfl

@[simp] theorem resetModeOnPowerDown_params (s : State) : (s.resetModeOnPowerDown).params = s.params := by
  unfold State.resetModeOnPowerDown; split <;> rfl
@[simp] theorem resetModeOnPowerDown_cmds (s : State) : (s.resetModeOnPowerDown).cmds = s.cmds := by
  unfold State.resetModeOnPowerDown; split <;> rfl
@[simp] theorem resetModeOnPowerDown_cp (s : State) : (s.resetModeOnPowerDown).cp = s.cp := by
  unfold State.resetModeOnPowerDown; split <;> rfl
@[simp] theorem resetModeOnPowerDown_ctrl (s : State) : (s.resetModeOnPowerDown).ctrl = s.ctrl := by
  unfold State.resetModeOnPowerDown; split <;> rfl
@[simp] theorem resetModeOnPowerDown_ovf (s : State) : (s.resetModeOnPowerDown).ovf = s.ovf := by
  unfold State.resetModeOnPowerDown; split <;> rfl
@[simp] theorem resetModeOnPowerDown_cnt (s : State) : (s.resetModeOnPowerDown).cnt = s.cnt := by
  unfold State.resetModeOnPowerDown; split <;> rfl
@[simp] theorem resetModeOnPowerDown_dr (s : State) : (s.resetModeOnPowerDown).dr = s.dr := by
  unfold State.resetModeOnPowerDown; split <;> rfl
@[simp] theorem resetModeOnPowerDown_dol (s : State) : (s.resetModeOnPowerDown).dol = s.dol := by
  unfold State.resetModeOnPowerDown; split <;> rfl
@[simp] theorem resetModeOnPowerDown_ddr (s : State) : (s.resetModeOnPowerDown).ddr = s.ddr := by
  unfold State.resetModeOnPowerDown; split <;> rfl
@[simp] theorem resetModeOnPowerDown_port (s : State) : (s.resetModeOnPowerDown).port = s.port := by
  unfold State.resetModeOnPowerDown; split <;> rfl
@[simp] theorem resetModeOnPowerDown_gie (s : State) : (s.resetModeOnPowerDown).gie = s.gie := by
  unfold State.resetModeOnPowerDown; split <;> rfl
@[simp] theorem resetModeOnPowerDown_hctrl (s : State) : (s.resetModeOnPowerDown).hctrl = s.hctrl := by
  unfold State.resetModeOnPowerDown; split <;> rfl
@[simp] theorem resetModeOnPowerDown_dataMode (s : State) : (s.resetModeOnPowerDown).dataMode = s.dataMode := by
  unfold State.resetModeOnPowerDown; split <;> rfl
@[simp] theorem resetModeOnPowerDown_initialized (s : State) : (s.resetModeOnPowerDown).initialized = s.initialized := by
  unfold State.resetModeOnPowerDown; split <;> rfl
@[simp] theorem resetModeOnPowerDown_interruptMask (s : State) : (s.resetModeOnPowerDown).interruptMask = s.interruptMask := by
  unfold State.resetModeOnPowerDown; split <;> rfl
@[simp] theorem resetModeOnPowerDown_phase (s : State) : (s.resetModeOnPowerDown).phase = s.phase := by
  unfold State.resetModeOnPowerDown; split <;> rfl
@[simp] theorem resetModeOnPowerDown_point (s : State) : (s.resetModeOnPowerDown).point = s.point := by
  unfold State.resetModeOnPowerDown; split <;> rfl
@[simp] theorem resetModeOnPowerDown_locals (s : State) : (s.resetModeOnPowerDown).locals = s.locals := by
  unfold State.resetModeOnPowerDown; split <;> rfl
@[simp] theorem resetModeOnPowerDown_saved (s : State) : (s.resetModeOnPowerDown).saved = s.saved := by
  unfold State.resetModeOnPowerDown; split <;> rfl
@[simp] theorem resetModeOnPowerDown_ret (s : State) : (s.resetModeOnPowerDown).ret = s.ret := by
  unfold State.resetModeOnPowerDown; split <;> rfl
@[simp] theorem resetModeOnPowerDown_history (s : State) : (s.resetModeOnPowerDown).history = s.history := by
  unfold State.resetModeOnPowerDown; split <;> rfl
@[simp] theorem resetModeOnPowerDown_mem (s : State) : (s.resetModeOnPowerDown).mem = s.mem := by
  unfold State.resetModeOnPowerDown; split <;> rfl
@[simp] theorem resetModeOnPowerDown_wireDraws (s : State) : (s.resetModeOnPowerDown).wireDraws = s.wireDraws := by
  unfold State.resetModeOnPowerDown; split <;> rfl
@[simp] theorem resetModeOnPowerDown_statDraws (s : State) : (s.resetModeOnPowerDown).statDraws = s.statDraws := by
  unfold State.resetModeOnPowerDown; split <;> rfl
@[simp] theorem resetModeOnPowerDown_yields (s : State) : (s.resetModeOnPowerDown).yields = s.yields := by
  unfold State.resetModeOnPowerDown; split <;> rfl

@[simp] theorem registerLine_params (n : Byte) (s : State) : (s.registerLine n).params = s.params := by
  unfold State.registerLine; split <;> rfl
@[simp] theorem registerLine_cmds (n : Byte) (s : State) : (s.registerLine n).cmds = s.cmds := by
  unfold State.registerLine; split <;> rfl
@[simp] theorem registerLine_cp (n : Byte) (s : State) : (s.registerLine n).cp = s.cp := by
  unfold State.registerLine; split <;> rfl
@[simp] theorem registerLine_ctrl (n : Byte) (s : State) : (s.registerLine n).ctrl = s.ctrl := by
  unfold State.registerLine; split <;> rfl
@[simp] theorem registerLine_ovf (n : Byte) (s : State) : (s.registerLine n).ovf = s.ovf := by
  unfold State.registerLine; split <;> rfl
@[simp] theorem registerLine_cnt (n : Byte) (s : State) : (s.registerLine n).cnt = s.cnt := by
  unfold State.registerLine; split <;> rfl
@[simp] theorem registerLine_dr (n : Byte) (s : State) : (s.registerLine n).dr = s.dr := by
  unfold State.registerLine; split <;> rfl
@[simp] theorem registerLine_dol (n : Byte) (s : State) : (s.registerLine n).dol = s.dol := by
  unfold State.registerLine; split <;> rfl
@[simp] theorem registerLine_ddr (n : Byte) (s : State) : (s.registerLine n).ddr = s.ddr := by
  unfold State.registerLine; split <;> rfl
@[simp] theorem registerLine_port (n : Byte) (s : State) : (s.registerLine n).port = s.port := by
  unfold State.registerLine; split <;> rfl
@[simp] theorem registerLine_gie (n : Byte) (s : State) : (s.registerLine n).gie = s.gie := by
  unfold State.registerLine; split <;> rfl
@[simp] theorem registerLine_hctrl (n : Byte) (s : State) : (s.registerLine n).hctrl = s.hctrl := by
  unfold State.registerLine; split <;> rfl
@[simp] theorem registerLine_dataMode (n : Byte) (s : State) : (s.registerLine n).dataMode = s.dataMode := by
  unfold State.registerLine; split <;> rfl
@[simp] theorem registerLine_initialized (n : Byte) (s : State) : (s.registerLine n).initialized = s.initialized := by
  unfold State.registerLine; split <;> rfl
@[simp] theorem registerLine_phase (n : Byte) (s : State) : (s.registerLine n).phase = s.phase := by
  unfold State.registerLine; split <;> rfl
@[simp] theorem registerLine_point (n : Byte) (s : State) : (s.registerLine n).point = s.point := by
  unfold State.registerLine; split <;> rfl
@[simp] theorem registerLine_locals (n : Byte) (s : State) : (s.registerLine n).locals = s.locals := by
  unfold State.registerLine; split <;> rfl
@[simp] theorem registerLine_saved (n : Byte) (s : State) : (s.registerLine n).saved = s.saved := by
  unfold State.registerLine; split <;> rfl
@[simp] theorem registerLine_ret (n : Byte) (s : State) : (s.registerLine n).ret = s.ret := by
  unfold State.registerLine; split <;> rfl
@[simp] theorem registerLine_history (n : Byte) (s : State) : (s.registerLine n).history = s.history := by
  unfold State.registerLine; split <;> rfl
@[simp] theorem registerLine_mem (n : Byte) (s : State) : (s.registerLine n).mem = s.mem := by
  unfold State.registerLine; split <;> rfl
@[simp] theorem registerLine_wireDraws (n : Byte) (s : State) : (s.registerLine n).wireDraws = s.wireDraws := by
  unfold State.registerLine; split <;> rfl
@[simp] theorem registerLine_statDraws (n : Byte) (s : State) : (s.registerLine n).statDraws = s.statDraws := by
  unfold State.registerLine; split <;> rfl
@[simp] theorem registerLine_yields (n : Byte) (s : State) : (s.registerLine n).yields = s.yields := by
  unfold State.registerLine; split <;> rfl

@[simp] theorem deregisterLine_params (n : Byte) (s : State) : (s.deregisterLine n).params = s.params := by
  unfold State.deregisterLine; split <;> rfl
@[simp] theorem deregisterLine_cmds (n : Byte) (s : State) : (s.deregisterLine n).cmds = s.cmds := by
  unfold State.deregisterLine; split <;> rfl
@[simp] theorem deregisterLine_cp (n : Byte) (s : State) : (s.deregisterLine n).cp = s.cp := by
  unfold State.deregisterLine; split <;> rfl
@[simp] theorem deregisterLine_ctrl (n : Byte) (s : State) : (s.deregisterLine n).ctrl = s.ctrl := by
  unfold State.deregisterLine; split <;> rfl
@[simp] theorem deregisterLine_ovf (n : Byte) (s : State) : (s.deregisterLine n).ovf = s.ovf := by
  unfold State.deregisterLine; split <;> rfl
@[simp] theorem deregisterLine_cnt (n : Byte) (s : State) : (s.deregisterLine n).cnt = s.cnt := by
  unfold State.deregisterLine; split <;> rfl
@[simp] theorem deregisterLine_dr (n : Byte) (s : State) : (s.deregisterLine n).dr = s.dr := by
  unfold State.deregisterLine; split <;> rfl
@[simp] theorem deregisterLine_dol (n : Byte) (s : State) : (s.deregisterLine n).dol = s.dol := by
  unfold State.deregisterLine; split <;> rfl
@[simp] theorem deregisterLine_ddr (n : Byte) (s : State) : (s.deregisterLine n).ddr = s.ddr := by
  unfold State.deregisterLine; split <;> rfl
@[simp] theorem deregisterLine_port (n : Byte) (s : State) : (s.deregisterLine n).port = s.port := by
  unfold State.deregisterLine; split <;> rfl
@[simp] theorem deregisterLine_gie (n : Byte) (s : State) : (s.deregisterLine n).gie = s.gie := by
  unfold State.deregisterLine; split <;> rfl
@[simp] theorem deregisterLine_hctrl (n : Byte) (s : State) : (s.deregisterLine n).hctrl = s.hctrl := by
  unfold State.deregisterLine; split <;> rfl
@[simp] theorem deregisterLine_dataMode (n : Byte) (s : State) : (s.deregisterLine n).dataMode = s.dataMode := by
  unfold State.deregisterLine; split <;> rfl
@[simp] theorem deregisterLine_initialized (n : Byte) (s : State) : (s.deregisterLine n).initialized = s.initialized := by
  unfold State.deregisterLine; split <;> rfl
@[simp] theorem deregisterLine_phase (n : Byte) (s : State) : (s.deregisterLine n).phase = s.phase := by
  unfold State.deregisterLine; split <;> rfl
@[simp] theorem deregisterLine_point (n : Byte) (s : State) : (s.deregisterLine n).point = s.point := by
  unfold State.deregisterLine; split <;> rfl
@[simp] theorem deregisterLine_locals (n : Byte) (s : State) : (s.deregisterLine n).locals = s.locals := by
  unfold State.deregisterLine; split <;> rfl
@[simp] theorem deregisterLine_saved (n : Byte) (s : State) : (s.deregisterLine n).saved = s.saved := by
  unfold State.deregisterLine; split <;> rfl
@[simp] theorem deregisterLine_ret (n : Byte) (s : State) : (s.deregisterLine n).ret = s.ret := by
  unfold State.deregisterLine; split <;> rfl
@[simp] theorem deregisterLine_history (n : Byte) (s : State) : (s.deregisterLine n).history = s.history := by
  unfold State.deregisterLine; split <;> rfl
@[simp] theorem deregisterLine_mem (n : Byte) (s : State) : (s.deregisterLine n).mem = s.mem := by
  unfold State.deregisterLine; split <;> rfl
@[simp] theorem deregisterLine_wireDraws (n : Byte) (s : State) : (s.deregisterLine n).wireDraws = s.wireDraws := by
  unfold State.deregisterLine; split <;> rfl
@[simp] theorem deregisterLine_statDraws (n : Byte) (s : State) : (s.deregisterLine n).statDraws = s.statDraws := by
  unfold State.deregisterLine; split <;> rfl
@[simp] theorem deregisterLine_yields (n : Byte) (s : State) : (s.deregisterLine n).yields = s.yields := by
  unfold State.deregisterLine; split <;> rfl

end Sys2Proof.Machine
end

