-- ==== Sys2Proof/Laws/Ops.lean ====
section
/-! SUPPORT. What the sequencer's operations can answer: one inversion lemma an operation, and the induction over the
micro-operations of a command. -/

namespace Sys2Proof.Machine

@[simp] theorem andThen_next (s : State) (f : State → Result) : andThen (.next s) f = f s := rfl
@[simp] theorem andThen_fault (r : Fault) (f : State → Result) : andThen (.fault r) f = .fault r := rfl
@[simp] theorem andThen_refused (r : Refusal) (f : State → Result) : andThen (.refused r) f = .refused r := rfl

theorem andThen_eq_next {o : Result} {f : State → Result} {t : State} (h : andThen o f = .next t) :
    ∃ u, o = .next u ∧ f u = .next t := by
  cases o with
  | next u => exact ⟨u, rfl, h⟩
  | fault r => cases h
  | refused r => cases h

/-- A command of one micro-operation answers that micro-operation's state with the command completed. -/
theorem single_eq_next {f : State → Result} {s t : State} (h : single f s = .next t) :
    s.point = .idle ∧ ∃ u, f s = .next u ∧ t = u.complete := by
  unfold single at h
  split at h
  · next hp =>
    obtain ⟨u, hu, ht⟩ := andThen_eq_next h
    cases ht
    exact ⟨hp, u, hu, rfl⟩
  · cases h
  · cases h

theorem single_idle {f : State → Result} {s : State} (h : s.point = .idle) :
    single f s = andThen (f s) fun t => .next t.complete := by
  simp [single, h]

theorem memRead_eq_next {a : Addr} {k : Byte → State → Result} {s t : State} (h : memRead a k s = .next t) :
    ∃ v, memGet s.mem a.toNat = some v ∧ k v (s.emit (.memR a v)) = .next t := by
  unfold memRead at h
  split at h
  · next v hv => exact ⟨v, hv, h⟩
  · cases h

theorem critExit_eq_next {s t : State} (h : critExit s = .next t) :
    ∃ g, s.saved = some g ∧ t = { s with saved := none, gie := g }.emit (.critExit g) := by
  unfold critExit at h
  split at h
  · next g hg => exact ⟨g, hg, (Host.Outcome.next.inj h).symm⟩
  · cases h

/-- A critical section restores what it found, whatever that was (R138). -/
theorem critExit_critEnter (s : State) :
    critExit s.critEnter =
      .next ({ s with saved := none, history := s.history ++ [Event.critEnter s.gie] }.emit (.critExit s.gie)) := rfl

theorem passYield_masked {s : State} (h : s.gie = false ∨ s.saved.isSome = true) : s.passYield = s := by
  unfold State.passYield
  split
  · next hc =>
    cases hs : s.saved <;> simp_all
  · rfl

/-- The interrupt agent appends `Preempt` events and does nothing else (R134). -/
theorem passYield_eq (s : State) :
    ∃ n k, s.passYield = { s with history := s.history ++ List.replicate n .preempt, yields := s.yields + k } := by
  unfold State.passYield
  split
  · exact ⟨_, 1, rfl⟩
  · exact ⟨0, 0, by simp⟩

@[simp] theorem runCommand_zero (m : State → Result) (s : State) : runCommand 0 m s = .next s := rfl

theorem runCommand_succ (n : Nat) (m : State → Result) (s : State) :
    runCommand (n + 1) m s =
      andThen (m s) fun t => if t.point = .idle ∨ n = 0 then .next t else runCommand n m t.passYield := rfl

/-- A command of one micro-operation is that micro-operation. -/
@[simp] theorem runCommand_one (m : State → Result) (s : State) : runCommand 1 m s = m s := by
  rw [runCommand_succ]
  cases m s <;> simp

/-- One micro-operation that leaves the command in progress. -/
theorem runCommand_continue {n : Nat} {m : State → Result} {s t : State} (h : m s = .next t) (hp : t.point ≠ .idle) :
    runCommand (n + 2) m s = runCommand (n + 1) m t.passYield := by
  rw [runCommand_succ, h]; simp [hp]

/-- The micro-operation that completes the command. -/
theorem runCommand_done {n : Nat} {m : State → Result} {s t : State} (h : m s = .next t) (hp : t.point = .idle) :
    runCommand (n + 1) m s = .next t := by
  rw [runCommand_succ, h]; simp [hp]

/-- Packaged induction: what every micro-operation and every `yield` keep, the command keeps. -/
theorem runCommand_keeps {P : State → Prop} {m : State → Result}
    (hm : ∀ s t, P s → m s = .next t → P t) (hy : ∀ s, P s → P s.passYield) :
    ∀ n s t, P s → runCommand n m s = .next t → P t := by
  intro n
  induction n with
  | zero => intro s t hs h; cases h; exact hs
  | succ n ih =>
    intro s t hs h
    rw [runCommand_succ] at h
    obtain ⟨u, hu, hr⟩ := andThen_eq_next h
    split at hr
    · cases hr; exact hm s t hs hu
    · exact ih _ _ (hy u (hm s u hs hu)) hr

/-- A relation to the command's first state, kept by every micro-operation and every `yield`, holds of its last. -/
theorem runCommand_rel {R : State → State → Prop} {m : State → Result} (hr : ∀ s, R s s)
    (hm : ∀ s t u, R s t → m t = .next u → R s u) (hy : ∀ s t, R s t → R s t.passYield)
    {n : Nat} {s t : State} (h : runCommand n m s = .next t) : R s t :=
  runCommand_keeps (P := R s) (fun a b ha hb => hm s a b ha hb) (fun a ha => hy s a ha) n s t (hr s) h

end Sys2Proof.Machine
end

