-- ==== Sys2Proof/Laws/Operands.lean ====
section
/-! SUPPORT. What an access to the register surface can do: one inversion lemma an access, and its frame. -/

namespace Sys2Proof.Machine

/-- Bit 6 of the value that `RegRead(STAT)` returns is the overflow flag, whatever the drawn bits are (R17, R83). -/
theorem regValue_stat_flag (s : State) : (s.regValue .stat).getLsbD 6 = s.ovf := by
  have h : ∀ (d : BitVec 3) (o : Bool) (c : BitVec 4), (statByte d o c).getLsbD 6 = o := by decide
  exact h _ _ _

/-- Bits 3:0 of the value that `RegRead(STAT)` returns are the edge counter (R17). -/
theorem regValue_stat_count (s : State) : (s.regValue .stat).extractLsb' 0 4 = s.cnt := by
  have h : ∀ (d : BitVec 3) (o : Bool) (c : BitVec 4), (statByte d o c).extractLsb' 0 4 = c := by decide
  exact h _ _ _

/-- The strobe bit of `CTRL` reads 0 (R11). -/
theorem ctrlByte_strobe_bit (s : State) : s.ctrlByte.getLsbD 0 = false := by
  have h : ∀ c : BitVec 7, (c ++ 0#1 : BitVec 8).getLsbD 0 = false := by decide
  exact h _

/-- Writing back what `CTRL` reads changes no stored bit. -/
theorem ctrlByte_stored (s : State) : s.ctrlByte.extractLsb' 1 7 = s.ctrl := by
  have h : ∀ c : BitVec 7, (c ++ 0#1 : BitVec 8).extractLsb' 1 7 = c := by decide
  exact h _

theorem regRead_eq_next {r : Reg} {k : Byte → State → Result} {s t : State} (h : regRead r k s = .next t) :
    regExists s.params.variant r = true ∧ k (s.regValue r) (s.noteRead r) = .next t := by
  unfold regRead at h
  split at h
  · next hr => exact ⟨hr, h⟩
  · cases h

theorem strobeOrRefuse_eq_next {s t : State} (h : strobeOrRefuse s = .next t) : s.clkCfg = true ∧ t = s.strobe := by
  unfold strobeOrRefuse at h
  split at h
  · next hc => exact ⟨hc, (Host.Outcome.next.inj h).symm⟩
  · cases h

theorem writeCtrl_eq_next {v : Byte} {s t : State} (h : writeCtrl v s = .next t) :
    (v.getLsbD 0 = false ∧ t = { s with ctrl := v.extractLsb' 1 7 }.relatch) ∨
    (v.getLsbD 0 = true ∧ { s with ctrl := v.extractLsb' 1 7 }.relatch.clkCfg = true ∧
      t = { s with ctrl := v.extractLsb' 1 7 }.relatch.strobe) := by
  unfold writeCtrl at h
  split at h
  · next hv => exact .inr ⟨hv, strobeOrRefuse_eq_next h⟩
  · next hv => exact .inl ⟨by simpa using hv, (Host.Outcome.next.inj h).symm⟩

theorem writePort_eq_next {v : Byte} {s t : State} (h : writePort v s = .next t) :
    (s.clockOwned = true → bitOf v s.params.pinSck = s.sck) ∧ t = { s with port := v }.relatch := by
  unfold writePort at h
  split at h
  · cases h
  · next hc =>
    refine ⟨fun ho => ?_, (Host.Outcome.next.inj h).symm⟩
    simpa [ho] using hc

/-- Everything a register write can do when it answers a next state (R101). -/
theorem regWrite_eq_next {r : Reg} {v : Byte} {s t : State} (h : regWrite r v s = .next t) :
    regExists s.params.variant r = true ∧ writeEffect r v (s.emit (.regW r v)) = .next t := by
  unfold regWrite at h
  split at h
  · next hr => exact ⟨hr, h⟩
  · cases h

/-- What no register write touches. -/
structure SameOutsideRegisters (s t : State) : Prop where
  params : t.params = s.params
  cmds : t.cmds = s.cmds
  cp : t.cp = s.cp
  dataMode : t.dataMode = s.dataMode
  initialized : t.initialized = s.initialized
  interruptMode : t.interruptMode = s.interruptMode
  interruptMask : t.interruptMask = s.interruptMask
  phase : t.phase = s.phase
  point : t.point = s.point
  locals : t.locals = s.locals
  saved : t.saved = s.saved
  ret : t.ret = s.ret
  mem : t.mem = s.mem
  statDraws : t.statDraws = s.statDraws
  yields : t.yields = s.yields

theorem writeEffect_frame {r : Reg} {v : Byte} {s t : State} (h : writeEffect r v s = .next t) :
    SameOutsideRegisters s t := by
  cases r with
  | ctrl =>
    rcases writeCtrl_eq_next h with ⟨-, rfl⟩ | ⟨-, -, rfl⟩ <;> constructor <;> simp
  | stat => cases h; constructor <;> rfl
  | data => cases h; constructor <;> simp
  | ddr => cases h; constructor <;> rfl
  | port =>
    obtain ⟨-, rfl⟩ := writePort_eq_next h
    constructor <;> simp
  | sreg => cases h; constructor <;> rfl
  | hctrl => cases h; constructor <;> rfl

theorem regWrite_frame {r : Reg} {v : Byte} {s t : State} (h : regWrite r v s = .next t) : SameOutsideRegisters s t := by
  obtain ⟨_, he⟩ := regWrite_eq_next h
  have f := writeEffect_frame he
  exact ⟨f.params, f.cmds, f.cp, f.dataMode, f.initialized, f.interruptMode, f.interruptMask, f.phase, f.point, f.locals,
    f.saved, f.ret, f.mem, f.statDraws, f.yields⟩

theorem setBits_frame {r : Reg} {m : Byte} {s t : State} (h : setBits r m s = .next t) : SameOutsideRegisters s t :=
  regWrite_frame h

theorem clrBits_frame {r : Reg} {m : Byte} {s t : State} (h : clrBits r m s = .next t) : SameOutsideRegisters s t :=
  regWrite_frame h

end Sys2Proof.Machine
end

