-- ==== Sys2Proof/Laws/ByteClock.lean ====
section
/-! SUPPORT. What one micro-operation of `ClockByte()` can do (R83). -/

namespace Sys2Proof.Machine

/-- The five lines of `ClockByte()` when they answer a next state. -/
theorem clockByte_eq_next {call ret : Nat} {l : ByteLine} {s t : State} (h : clockByte call ret l s = .next t) :
    (l = .clear ∧ ∃ u, regWrite .stat 0x40 s = .next u ∧ t = u.goto (.clock call .enter)) ∨
    (l = .enter ∧ t = (s.critEnter.setPhase .clocking).goto (.clock call .poll)) ∨
    (l = .poll ∧ s.ovf = true ∧ t = ((s.noteRead .stat).setPhase .done).goto (.clock call .exit)) ∨
    (l = .poll ∧ s.ovf = false ∧ t = (s.noteRead .stat).goto (.clock call .strobe)) ∨
    (l = .strobe ∧ ∃ u, setBits .ctrl 0x01 s = .next u ∧ t = u.goto (.clock call .poll)) ∨
    (l = .exit ∧ ∃ u, critExit s = .next u ∧ t = (u.setPhase .idle).goto (.line ret)) := by
  cases l with
  | clear =>
    obtain ⟨u, hu, ht⟩ := andThen_eq_next h
    cases ht
    exact .inl ⟨rfl, u, hu, rfl⟩
  | enter => cases h; exact .inr (.inl ⟨rfl, rfl⟩)
  | poll =>
    simp only [clockByte] at h
    obtain ⟨-, hk⟩ := regRead_eq_next h
    split at hk
    · next ho => cases hk; exact .inr (.inr (.inl ⟨rfl, ho, rfl⟩))
    · next ho => cases hk; exact .inr (.inr (.inr (.inl ⟨rfl, by simpa using ho, rfl⟩)))
  | strobe =>
    obtain ⟨u, hu, ht⟩ := andThen_eq_next h
    cases ht
    exact .inr (.inr (.inr (.inr (.inl ⟨rfl, u, hu, rfl⟩))))
  | exit =>
    obtain ⟨u, hu, ht⟩ := andThen_eq_next h
    cases ht
    exact .inr (.inr (.inr (.inr (.inr ⟨rfl, u, hu, rfl⟩))))

theorem admitTransfer_eq_next {f : State → Result} {s t : State} (h : admitTransfer f s = .next t) :
    s.params.variant = .usi ∧ s.configured = true ∧ f s = .next t := by
  unfold admitTransfer transferRefusal at h
  cases hv : s.params.variant <;> cases hc : s.configured <;> simp_all

end Sys2Proof.Machine
end

