-- ==== Sys2Proof/Laws/Decode.lean ====
section
/-! SUPPORT. The fields of an assembled word, and of a word taken apart. -/

namespace Sys2Proof

@[simp] theorem opField_assemble (op : BitVec 8) (a b : BitVec 16) : opField (assemble op a b) = op := by
  apply BitVec.eq_of_getLsbD_eq
  intro i hi
  simp only [opField, assemble, BitVec.getLsbD_extractLsb', BitVec.getLsbD_append]
  simp only [hi, decide_true, Bool.true_and, show ¬ 32 + i < 16 from by omega, show ¬ 32 + i - 16 < 16 from by omega,
    if_false, show 32 + i - 16 - 16 = i from by omega]

@[simp] theorem aField_assemble (op : BitVec 8) (a b : BitVec 16) : aField (assemble op a b) = a := by
  apply BitVec.eq_of_getLsbD_eq
  intro i hi
  simp only [aField, assemble, BitVec.getLsbD_extractLsb', BitVec.getLsbD_append]
  simp [hi]

@[simp] theorem bField_assemble (op : BitVec 8) (a b : BitVec 16) : bField (assemble op a b) = b := by
  apply BitVec.eq_of_getLsbD_eq
  intro i hi
  simp only [bField, assemble, BitVec.getLsbD_extractLsb', BitVec.getLsbD_append]
  simp [hi]

/-- A word is what its three fields assemble to (R55). -/
theorem assemble_fields (w : CmdWord) : assemble (opField w) (aField w) (bField w) = w := by
  apply BitVec.eq_of_getLsbD_eq
  intro i hi
  simp only [opField, aField, bField, assemble, BitVec.getLsbD_extractLsb', BitVec.getLsbD_append]
  split
  · next h => simp [h]
  · split
    · next h1 h2 => simp [h2]; congr 1; omega
    · next h1 h2 =>
      simp only [show i - 16 - 16 < 8 from by omega, decide_true, Bool.true_and, show 32 + (i - 16 - 16) = i from by omega]

@[simp] theorem ofNumber_number (r : Reg) : Reg.ofNumber r.number = some r := by cases r <;> rfl

@[simp] theorem modeOfNumber_number (m : DataMode) : DataMode.ofNumber m.number = m := by cases m <;> rfl

end Sys2Proof
end

