-- ==== Sys2Proof/Laws/Flags.lean ====
section
/-! SUPPORT. What the flag operations answer: the latch, the counter, one strobe. -/

namespace Sys2Proof.Machine

open Sys2Proof.Config

/-- The latch follows the shift register exactly while it is transparent (R22). -/
theorem relatch_dol (s : State) :
    s.relatch.dol = if s.params.variant = .usi ∧ s.sck = s.cs0 then s.dr.getLsbD 7 else s.dol := by
  unfold State.relatch
  cases hv : s.params.variant <;> by_cases h : s.sck = s.cs0 <;> simp [h]

theorem countStrobe_cnt (s : State) :
    s.countStrobe.cnt = if s.params.hwFaultNoOverflow then s.cnt else s.cnt + 1 := by
  unfold State.countStrobe; split <;> rfl

theorem countStrobe_ovf (s : State) :
    s.countStrobe.ovf = if s.params.hwFaultNoOverflow then s.ovf else (s.ovf || s.cnt == 15#4) := by
  unfold State.countStrobe; split <;> rfl

/-- A strobe never clears the overflow flag (R18). -/
theorem strobe_ovf_mono {s : State} (h : s.ovf = true) : s.strobe.ovf = true := by
  have he : s.strobe.ovf = s.toggleSck.countStrobe.ovf := by
    unfold State.strobe State.edge
    split <;> simp [State.sampleEdge]
  rw [he, countStrobe_ovf]
  split <;> simp [h]

/-- A strobe toggles the clock line and no other bit of `PORT` (R80). -/
theorem strobe_port (s : State) : s.strobe.port = s.port ^^^ bitMask s.params.pinSck := by
  unfold State.strobe State.edge
  split <;> simp [State.sampleEdge]

/-- What the two kinds of edge do to the shift register (R80). -/
theorem edge_dr (s : State) :
    s.edge.dr = if s.sck = s.cs0 then s.dr else s.dr.extractLsb' 0 7 ++ BitVec.ofBool s.diLevel := by
  unfold State.edge
  split <;> simp [State.sampleEdge]

end Sys2Proof.Machine
end

