-- ==== Sys2Proof/Laws/Memory.lean ====
section
/-! SUPPORT. Memory: a read after a write, and that a write keeps the canonical form. -/

namespace Sys2Proof.Machine

theorem memGet_memSet_same (m : List Host.Cell) (a : Nat) (v : Byte) : memGet (memSet m a v) a = some v := by
  induction m with
  | nil => simp [memSet, memGet]
  | cons c rest ih =>
    obtain ⟨k, u⟩ := c
    simp only [memSet]
    split
    · simp [memGet]
    · split
      · simp [memGet]
      · simp [memGet, ih, show ¬ k = a from fun h => by simp_all]

theorem memGet_memSet_other (m : List Host.Cell) (a b : Nat) (v : Byte) (h : b ≠ a) :
    memGet (memSet m a v) b = memGet m b := by
  induction m with
  | nil => simp [memSet, memGet, h.symm]
  | cons c rest ih =>
    obtain ⟨k, u⟩ := c
    simp only [memSet]
    split
    · simp [memGet, h.symm]
    · split
      · next h2 => subst h2; simp [memGet, h.symm]
      · simp [memGet, ih]

/-- A read after any write. -/
theorem memGet_memSet (m : List Host.Cell) (a b : Nat) (v : Byte) :
    memGet (memSet m a v) b = if b = a then some v else memGet m b := by
  split
  · next h => subst h; exact memGet_memSet_same m b v
  · next h => exact memGet_memSet_other m a b v h

theorem memWfFrom_memSet (m : List Host.Cell) (lo a : Nat) (v : Byte) (hlo : lo ≤ a) (ha : a < 2 ^ 16)
    (h : memWfFrom lo m = true) : memWfFrom lo (memSet m a v) = true := by
  induction m generalizing lo with
  | nil => simp only [memSet, memWfFrom, Bool.and_true, Bool.and_eq_true, decide_eq_true_eq]; exact ⟨hlo, ha⟩
  | cons c rest ih =>
    obtain ⟨k, u⟩ := c
    simp only [memWfFrom, Bool.and_eq_true, decide_eq_true_eq] at h
    simp only [memSet]
    split
    · simp only [memWfFrom, Bool.and_eq_true, decide_eq_true_eq]
      exact ⟨⟨hlo, ha⟩, ⟨by omega, h.1.2⟩, h.2⟩
    · split
      · next h2 =>
        subst h2
        simp only [memWfFrom, Bool.and_eq_true, decide_eq_true_eq]
        exact ⟨⟨hlo, ha⟩, h.2⟩
      · simp only [memWfFrom, Bool.and_eq_true, decide_eq_true_eq]
        exact ⟨h.1, ih (k + 1) (by omega) h.2⟩

/-- A write keeps the canonical form. -/
theorem memWf_memSet (m : List Host.Cell) (a : Addr) (v : Byte) (h : memWf m = true) :
    memWf (memSet m a.toNat v) = true :=
  memWfFrom_memSet m 0 a.toNat v (Nat.zero_le _) a.isLt h

/-- Every listed byte lies in the address space. -/
theorem memGet_lt_of_memWfFrom (m : List Host.Cell) (lo a : Nat) (v : Byte) (h : memWfFrom lo m = true)
    (hg : memGet m a = some v) : a < 2 ^ 16 := by
  induction m generalizing lo with
  | nil => simp [memGet] at hg
  | cons c rest ih =>
    obtain ⟨k, u⟩ := c
    simp only [memWfFrom, Bool.and_eq_true, decide_eq_true_eq] at h
    simp only [memGet] at hg
    split at hg
    · omega
    · exact ih (k + 1) h.2 hg

end Sys2Proof.Machine
end

