-- ==== Sys2Proof/Laws/PerInstr.lean ====
section
/-! SUPPORT. A fact about every command as syntax, one lemma a constructor: the word of a command carries the opcode of
its row of spec/opcode_table.json (R60, bits 39:32 of the row's pattern). -/

namespace Sys2Proof.Laws.EncodedOpcode

/-- The opcode of a command's row (R60). -/
def opcode : Instr → BitVec 8
  | .beginCmd => 0x01
  | .endCmd => 0x02
  | .setMode _ => 0x03
  | .xfer8 _ => 0x04
  | .xfer16 _ => 0x05
  | .xferBuf _ _ => 0x06
  | .rdReg _ => 0x08
  | .wrReg _ _ => 0x09
  | .setBits _ _ => 0x0A
  | .clrBits _ _ => 0x0B
  | .useInt _ => 0x10
  | .noUseInt _ => 0x11
  | .attachInt => 0x12
  | .detachInt => 0x13

/-- The `op` field of the command's word is its row's opcode. -/
def Statement (i : Instr) : Prop := opField (encode i) = opcode i

theorem beginCmd : Statement .beginCmd := opField_assemble _ _ _
theorem endCmd : Statement .endCmd := opField_assemble _ _ _
theorem setMode (m : DataMode) : Statement (.setMode m) := opField_assemble _ _ _
theorem xfer8 (v : Byte) : Statement (.xfer8 v) := opField_assemble _ _ _
theorem xfer16 (v : Word) : Statement (.xfer16 v) := opField_assemble _ _ _
theorem xferBuf (addr : Addr) (count : Word) : Statement (.xferBuf addr count) := opField_assemble _ _ _
theorem rdReg (r : Reg) : Statement (.rdReg r) := opField_assemble _ _ _
theorem wrReg (r : Reg) (v : Byte) : Statement (.wrReg r v) := opField_assemble _ _ _
theorem setBits (r : Reg) (m : Byte) : Statement (.setBits r m) := opField_assemble _ _ _
theorem clrBits (r : Reg) (m : Byte) : Statement (.clrBits r m) := opField_assemble _ _ _
theorem useInt (n : Byte) : Statement (.useInt n) := opField_assemble _ _ _
theorem noUseInt (n : Byte) : Statement (.noUseInt n) := opField_assemble _ _ _
theorem attachInt : Statement .attachInt := opField_assemble _ _ _
theorem detachInt : Statement .detachInt := opField_assemble _ _ _

end Sys2Proof.Laws.EncodedOpcode
end

