-- ==== Sys2Proof/Laws/Sequencer.lean ====
section
/-! SUPPORT. How a command, its micro-operations and the machine's step hang together (R7, R8). -/

namespace Sys2Proof.Machine

theorem microCount_pos (i : Instr) : 0 < microCount i := by
  cases i with
  | xferBuf a c =>
    simp only [microCount, xferBufMicros, clockByteMicros]
    split
    · decide
    · next h => have : c.toNat ≠ 0 := fun h0 => h (BitVec.eq_of_toNat_eq (by simpa using h0)); omega
  | _ => first | decide | simp [microCount, clockByteMicros]

/-- A command is its micro-operations, run until it completes or has taken as many as it takes at most. -/
theorem exec_eq_runCommand (i : Instr) (s : State) : exec i s = runCommand (microCount i) (microOp i) s := by
  cases i <;> first | rfl | exact (runCommand_one _ s).symm

/-- Where the word at `CP` decodes to a command, the step is its next micro-operation. -/
theorem step_of_decode {s : State} {w : CmdWord} {i : Instr} (hf : s.fetch = some w) (hd : decode w = .ok i) :
    step s = microOp i s.passYield := by
  have hr : s.runOver = false := by
    unfold State.fetch at hf
    have hl : s.cp < s.cmds.length := by
      obtain ⟨h, -⟩ := List.getElem?_eq_some_iff.mp hf; exact h
    simp [State.runOver, Nat.ne_of_lt hl]
  simp [step, hr, hf, hd]

/-- Everything a step that answers a next state can be: a micro-operation of the command at `CP`. -/
theorem step_eq_next {s t : State} (h : step s = .next t) :
    ∃ w i, s.fetch = some w ∧ decode w = .ok i ∧ microOp i s.passYield = .next t := by
  unfold step at h
  split at h
  · cases h
  · split at h
    · cases h
    · next w hw =>
      split at h
      · cases h
      · next i hi => exact ⟨w, i, hw, hi, h⟩

end Sys2Proof.Machine
end

