-- ==== Sys2Proof/Tests/Slice0.lean ====
section
/-! SUPPORT. The model's own tests: ill-formed terms, one word written out a constructor, at most two small steps an
instruction (expected results from spec/95_test_vectors.md and the worked examples of the rules), and a witness for the
hypotheses of every statement. -/

namespace Sys2Proof.Tests

open Sys2Proof.Machine Sys2Proof.Config

/-! ### Helpers -/

/-- A build whose data-out is wired to its data-in. -/
def loopParams : Params := { Params.default with wiring := .loopback }

/-- The hardware-SPI build of V26, with its two-line table. -/
def hwParams : Params := { Params.default with variant := .hwspi, intMaskTable := [(0, 0), (1, 1)] }

/-- A launch state with the given parameters and one command word at `CP = 0`. -/
def launch (p : Params) (w : CmdWord) : State := State.resetWith p [w] []

/-- "Configured": reset followed by `BEGIN` (spec/95_test_vectors.md, conventions). -/
def configured (p : Params) : State := { launch p 0x0400000055 with ctrl := 0x0D, ddr := 0x06 }

/-- A hardware-SPI build at rest with the given reference count. -/
def counted (n : BitVec 8) : State := { launch hwParams 0x0100000000 with initialized := n }

/-- A field of the next state, if there is one. -/
def after {α : Type} (o : Result) (f : State → α) : Option α :=
  match o with
  | .next s => some (f s)
  | .fault _ => none
  | .refused _ => none

/-- The refusal, if there is one. -/
def refusal (o : Result) : Option Refusal :=
  match o with
  | .next _ => none
  | .fault _ => none
  | .refused r => some r

/-- The fault, if there is one. -/
def faultOf (o : Result) : Option Fault :=
  match o with
  | .next _ => none
  | .fault r => some r
  | .refused _ => none

/-- The state of the field tests: a next state exists exactly where a field of it does. -/
theorem next_of_after {o : Result} (h : (after o fun _ => ()).isSome = true) : ∃ t, o = .next t := by
  cases o with
  | next t => exact ⟨t, rfl⟩
  | fault r => cases h
  | refused r => cases h

/-! ### Ill-formed terms (R58) -/

theorem test_setBits_stat_ill_formed : (Instr.setBits .stat 0x40).wellFormed = false := by decide
theorem test_setBits_data_ill_formed : (Instr.setBits .data 0x01).wellFormed = false := by decide
theorem test_clrBits_stat_ill_formed : (Instr.clrBits .stat 0x40).wellFormed = false := by decide
theorem test_clrBits_data_ill_formed : (Instr.clrBits .data 0x01).wellFormed = false := by decide

/-! ### Words written out from the opcode table's encodings -/

theorem test_decode_beginCmd : decode 0b0000000100000000000000000000000000000000 = .ok .beginCmd := by rfl
theorem test_decode_endCmd : decode 0b0000001000000000000000000000000000000000 = .ok .endCmd := by rfl
theorem test_decode_setMode : decode 0b0000001100000000000000000000000000000011 = .ok (.setMode .mode3) := by rfl
theorem test_decode_xfer8 : decode 0b0000010000000000000000000000000010100101 = .ok (.xfer8 0xA5) := by rfl
theorem test_decode_xfer16 : decode 0b0000010100000000000000000001001000110100 = .ok (.xfer16 0x1234) := by rfl
theorem test_decode_xferBuf : decode 0b0000011000000001000000000000000000000011 = .ok (.xferBuf 0x0100 3) := by rfl
theorem test_decode_rdReg : decode 0b0000100000000000000001100000000000000000 = .ok (.rdReg .hctrl) := by rfl
theorem test_decode_wrReg : decode 0b0000100100000000000000010000000001001111 = .ok (.wrReg .stat 0x4F) := by rfl
theorem test_decode_setBits : decode 0b0000101000000000000001010000000010000000 = .ok (.setBits .sreg 0x80) := by rfl
theorem test_decode_clrBits : decode 0b0000101100000000000001000000000000001000 = .ok (.clrBits .port 0x08) := by rfl
theorem test_decode_useInt : decode 0b0001000000000000000000000000000000000111 = .ok (.useInt 7) := by rfl
theorem test_decode_noUseInt : decode 0b0001000100000000000000000000000000001001 = .ok (.noUseInt 9) := by rfl
theorem test_decode_attachInt : decode 0b0001001000000000000000000000000000000000 = .ok .attachInt := by rfl
theorem test_decode_detachInt : decode 0b0001001100000000000000000000000000000000 = .ok .detachInt := by rfl

/-- V28: must-be-zero bits, unassigned opcodes, register numbers, the two-bit mode. -/
theorem test_decode_invalid_words :
    decode 0x04000001A5 = .error .mustBeZeroBits ∧ decode 0x0400010000 = .error .mustBeZeroBits ∧
    decode 0x0000000000 = .error .unassignedOpcode ∧ decode 0x0700000000 = .error .unassignedOpcode ∧
    decode 0x0300000004 = .error .mustBeZeroBits ∧ decode 0x0801000000 = .error .mustBeZeroBits := by
  refine ⟨?_, ?_, ?_, ?_, ?_, ?_⟩ <;> rfl

/-- V23, V28: a bit operation on `STAT` or `DATA`, and register 7, are no commands. -/
theorem test_decode_invalid_registers :
    decode 0x0A00010040 = .error .notBitAccessible ∧ decode 0x0B00020001 = .error .notBitAccessible ∧
    decode 0x0800070000 = .error .noSuchRegisterNumber := by
  refine ⟨?_, ?_, ?_⟩ <;> rfl

/-- R64's example: `XFER8 0xA5` is `0x04000000A5`; R65: `SSOUT` is `0x0A00030008`. -/
theorem test_encode_examples :
    encode (.xfer8 0xA5) = 0x04000000A5 ∧ encode (.setBits .ddr 0x08) = 0x0A00030008 := by decide

theorem test_tableWord : decodeTableWord 40 0x0B00040008 = some (.clrBits .port 0x08) := by rfl

/-! ### The step -/

/-- A placed word is the very next command. -/
theorem test_withFetchWord :
    after (step (State.reset.withFetchWord 40 0x0A00050080)) (fun t => (t.gie, t.cp)) = some (true, 1) := by decide

/-- R8: a step is one micro-operation, here line 1 of R71; the command is left in progress at its line 2. -/
theorem test_step_is_one_micro_operation :
    after (step (launch loopParams 0x0100000000)) (fun t => (t.point, t.cp, t.history)) =
      some (.line 2, 0, [.regW .ctrl 0x00]) := by decide

/-- P5: a transfer from reset is refused. -/
theorem test_step_transfer_from_reset :
    refusal (step (State.reset.withFetchWord 40 0x0400000055)) = some .notConfigured := by decide

/-- R61: a zeroed word is invalid. -/
theorem test_step_invalid_word : refusal (step (launch loopParams 0)) = some .invalidCommand := by decide

/-- R156: with no command left the run is over. -/
theorem test_step_end_of_run : faultOf (step State.reset) = some .endOfRun := by decide

/-! ### Lifecycle -/

/-- V14: `BEGIN` from reset. -/
theorem test_beginCmd_from_reset :
    after (Sys2Proof.core.run 5 (launch loopParams 0x0100000000)) (fun t => (t.ctrlByte, t.ddr, t.history)) =
      some (0x1A, 0x06, [.regW .ctrl 0x00, .regW .ctrl 0x1A, .regW .ddr 0x04, .regW .ddr 0x06, .regW .ddr 0x06]) := by
  decide

/-- V24: the first `BEGIN` of the HWSPI variant. -/
theorem test_beginCmd_hw :
    after (exec .beginCmd (counted 0)) (fun t => (t.port, t.ddr, t.hctrl, t.initialized, t.history)) =
      some (0x08, 0x0E, 0x50, 1, [.critEnter false, .regW .port 0x08, .regW .ddr 0x08, .regW .hctrl 0x10,
        .regW .hctrl 0x50, .regW .ddr 0x0C, .regW .ddr 0x0E, .critExit false]) := by decide

/-- V18: `END` from configured. -/
theorem test_endCmd_usi :
    after (exec .endCmd (configured loopParams)) (fun t => (t.ctrlByte, t.ddr, t.history)) =
      some (0x0A, 0x06, [.regW .ctrl 0x0A]) := by decide

/-- V24: the `END` that takes the count from 1 to 0. -/
theorem test_endCmd_hw :
    after (exec .endCmd { counted 1 with hctrl := 0x50 }) (fun t => (t.initialized, t.hctrl, t.history)) =
      some (0, 0x10, [.critEnter false, .regW .hctrl 0x10, .critExit false]) := by decide

/-- V16: `SETMODE MODE1` sets the clock-source bit. -/
theorem test_setMode_mode1 :
    after (exec (.setMode .mode1) (configured loopParams)) (fun t => (t.ctrlByte, t.dataMode, t.history)) =
      some (0x1E, .mode1, [.regW .ctrl 0x1E]) := by decide

/-- V17: `SETMODE MODE0` opens the latch without a clock edge. -/
theorem test_setMode_opens_latch :
    after (exec (.setMode .mode0) { configured loopParams with ctrl := 0x0F, dol := true })
      (fun t => (t.ctrlByte, t.dol, t.cnt)) = some (0x1A, false, 0) := by decide

/-! ### Transfers -/

/-- V12: a byte after stray strobes, the clock idling high. -/
theorem test_xfer8_after_strobes :
    after (exec (.xfer8 0x81) { configured loopParams with port := 0x04, cnt := 3 })
      (fun t => (t.ret, t.port, t.ovf, t.cnt, t.gie)) = some (some 0x0081, 0x04, true, 0, false) := by decide

/-- V13: the hang goes on polling with interrupts off. -/
theorem test_xfer8_hang :
    after (exec (.xfer8 0x00) { configured { loopParams with hwFaultNoOverflow := true } with ctrl := 0x0D })
      (fun t => (t.phase, t.gie, t.cp, t.ovf, t.saved)) = some (.clocking, false, 0, false, some false) := by decide

/-- V7: the result keeps the byte order. -/
theorem test_xfer16_result :
    after (exec (.xfer16 0x1234) (configured loopParams)) (fun t => (t.ret, t.dr)) = some (some 0x1234, 0x34) := by
  decide

/-- V9, shortened to two bytes: memory is written back in order. -/
theorem test_xferBuf_loopback :
    after (exec (.xferBuf 0x0300 2) { configured loopParams with mem := [(0x300, 0xDE), (0x301, 0xAD)] })
      (fun t => (t.mem, t.dr, t.ret)) = some ([(0x300, 0xDE), (0x301, 0xAD)], 0xAD, none) := by decide

/-- V29: an unwritten byte is a fault of the model. -/
theorem test_xferBuf_unwritten :
    faultOf (exec (.xferBuf 0x0010 1) (configured loopParams)) = some (.memNoValue 0x0010) := by decide

/-- V28: a buffer that ends at the top of memory is admitted, one byte more is refused. -/
theorem test_xferBuf_top_of_memory :
    faultOf (exec (.xferBuf 0xFFFF 1) (configured loopParams)) = some (.memNoValue 0xFFFF) ∧
    refusal (exec (.xferBuf 0xFFFF 2) (configured loopParams)) = some .bufferWraps := by decide

/-! ### Register surface -/

/-- V19: `RDREG CTRL` after `BEGIN`. -/
theorem test_rdReg_ctrl :
    after (exec (.rdReg .ctrl) (configured loopParams)) (fun t => (t.ret, t.history)) =
      some (some 0x001A, [.regR .ctrl 0x1A, .ret 0 0x001A]) := by decide

/-- V19: `HCTRL` does not exist in the USI variant. -/
theorem test_rdReg_hctrl_refused : refusal (exec (.rdReg .hctrl) (configured loopParams)) = some .noSuchRegister := by
  decide

/-- V20: `WRREG STAT, 0x4F` clears the flag and loads the counter. -/
theorem test_wrReg_stat :
    after (exec (.wrReg .stat 0x4F) { configured loopParams with ovf := true }) (fun t => (t.ovf, t.cnt)) =
      some (false, 15) := by decide

/-- R103's corner case and V21: `WRREG CTRL, 0x1B` configures the clock source and strobes once. -/
theorem test_wrReg_ctrl_strobes :
    after (exec (.wrReg .ctrl 0x1B) { launch loopParams 0 with ddr := 0x04 }) (fun t => (t.ctrlByte, t.port, t.cnt)) =
      some (0x1A, 0x04, 1) := by decide

/-- V21: a strobe by hand samples on the rising edge. -/
theorem test_setBits_strobe :
    after (exec (.setBits .ctrl 0x01) (configured loopParams)) (fun t => (t.port, t.cnt, t.ctrlByte, t.history)) =
      some (0x04, 1, 0x1A, [.regW .ctrl 0x1B, .edge true false (some false)]) := by decide

/-- V22: the clock pin is the engine's while `CS1 = 1`. -/
theorem test_setBits_clock_pin :
    refusal (exec (.setBits .port 0x04) (configured loopParams)) = some .manualClockEdge := by decide

/-- V21: `CLRBITS CTRL, 0x01` does not strobe. -/
theorem test_clrBits_no_strobe :
    after (exec (.clrBits .ctrl 0x01) (configured loopParams)) (fun t => (t.port, t.cnt, t.history)) =
      some (0x00, 0, [.regW .ctrl 0x1A]) := by decide

/-- V23: `CLI`. -/
theorem test_clrBits_cli :
    after (exec (.clrBits .sreg 0x80) { configured loopParams with gie := true }) (fun t => (t.gie, t.history)) =
      some (false, [.regW .sreg 0x00]) := by decide

/-! ### Interrupt lines -/

/-- V26: a recognised line. -/
theorem test_useInt_line :
    after (exec (.useInt 1) (counted 0)) (fun t => (t.interruptMask, t.interruptMode)) = some (0x02, .lines) := by decide

/-- V26: an unrecognised line. -/
theorem test_useInt_unrecognised :
    after (exec (.useInt 7) (counted 0)) (fun t => (t.interruptMask, t.interruptMode)) = some (0x00, .all) := by decide

/-- V26: the mask empties and the mode falls to `NONE`. -/
theorem test_noUseInt_empties :
    after (exec (.noUseInt 0) { counted 0 with interruptMask := 0x01, interruptMode := .lines })
      (fun t => (t.interruptMask, t.interruptMode)) = some (0x00, .none) := by decide

/-- V26: mode `ALL` absorbs. -/
theorem test_noUseInt_all :
    after (exec (.noUseInt 0) { counted 0 with interruptMask := 0x01, interruptMode := .all })
      (fun t => (t.interruptMask, t.interruptMode)) = some (0x01, .all) := by decide

/-- V27. -/
theorem test_attachInt :
    refusal (exec .attachInt (counted 0)) = some .noSemanticsInSource ∧
    refusal (exec .attachInt (configured loopParams)) = some .notInVariant := by decide

/-- V27. -/
theorem test_detachInt :
    refusal (exec .detachInt (counted 0)) = some .noSemanticsInSource ∧
    refusal (exec .detachInt (configured loopParams)) = some .notInVariant := by decide

/-! ### Witnesses: every statement's hypotheses are met together by a concrete state and operands

A statement about `exec i s = .next t` is witnessed by an `s` for which there is such a `t`. -/

/-- A configured loopback build, its two-byte buffer written at the top of memory. -/
def bufferState : State := { configured loopParams with mem := [(0xFFFE, 0x12), (0xFFFF, 0x34)] }

/-- A hung build: the fault parameter is on and `XFER8` stands at `CP`. -/
def hangState : State := configured { loopParams with hwFaultNoOverflow := true }

theorem reset_inv : State.reset.Inv := by
  constructor <;> decide

theorem configured_inv : (configured loopParams).Inv := by
  constructor <;> decide

/-- A command in progress that meets the invariant: `BEGIN` before its line 3. -/
theorem inProgress_inv :
    ({ launch loopParams 0x0100000000 with ctrl := 0x0D, point := .line 3 } : State).Inv ∧
    ({ launch loopParams 0x0100000000 with ctrl := 0x0D, point := .line 3 } : State).point ≠ .idle := by
  refine ⟨?_, by decide⟩
  constructor <;> decide

theorem ready_loopback : (configured loopParams).ReadyToTransfer ∧ (configured loopParams).LatchHolds := by decide
theorem ready_slave : (configured Params.default).ReadyToTransfer := by decide

theorem witness_DecodeEncodeRoundTrip : (Instr.setBits .hctrl 0xFF).wellFormed = true := by decide
theorem witness_EncodeDecodeRoundTrip : decode 0x06FFFFFFFF = .ok (.xferBuf 0xFFFF 0xFFFF) := by rfl
theorem witness_DecoderFollowsOpcodeTable :
    (⟨"CLRBITS", 0xFFFFF0FF00, 0x0B00000000, bitReg⟩ : OpcodeRow) ∈ opcodeTable ∧
    opcodeTable.all (fun row => !row.admits 0x0A00020000) = true := by decide
theorem witness_InvalidCommandRefused :
    (launch loopParams 0x0700000000).runOver = false ∧ (launch loopParams 0x0700000000).fetch = some 0x0700000000 ∧
    decode 0x0700000000 = .error .unassignedOpcode := ⟨by decide, by decide, by rfl⟩
theorem witness_StepRunsDecodedCommand :
    (configured loopParams).runOver = false ∧ (configured loopParams).cmds[(configured loopParams).cp]? = some 0x0400000055 ∧
    decode 0x0400000055 = .ok (.xfer8 0x55) := ⟨by decide, by decide, by rfl⟩
theorem witness_ResetMeetsInvariant : memWf bufferState.mem = true := by decide
theorem witness_InterruptAgentOnlyRecords : (configured loopParams).gie = false := by decide
theorem witness_InterruptAgentOnlyRecords_section :
    ({ hangState with gie := true, saved := some true } : State).saved.isSome = true := by decide
theorem witness_RunEndsAfterLastCommand :
    State.reset.cp = State.reset.cmds.length ∧ State.reset.point = .idle := by decide
/-- For the statements whose only hypotheses are a step and a premise that `configured loopParams` meets. -/
theorem witness_step_next : ∃ t, step (configured loopParams) = .next t := next_of_after (by decide)
theorem witness_step_in_progress :
    ∃ t, step { hangState with point := .clock 2 .poll, phase := .clocking, saved := some true } = .next t ∧
      t.point ≠ .idle := ⟨_, rfl, by decide⟩
theorem witness_step_premises :
    (configured loopParams).Inv ∧ memWf (configured loopParams).mem = true ∧ (configured loopParams).SectionsClean :=
  ⟨configured_inv, by decide, by decide⟩
theorem witness_MemoryStaysCanonical : memWf bufferState.mem = true ∧ ∃ t, step bufferState = .next t :=
  ⟨by decide, next_of_after (by decide)⟩
theorem witness_InterruptFlagRestored :
    (configured loopParams).AtRest ∧
    after (exec (.xfer8 0x55) (configured loopParams)) (·.point) = some .idle ∧
    (Instr.xfer8 0x55).writtenReg ≠ some .sreg := by decide
theorem witness_OverflowFlagNeverClearedByHardware :
    after (exec (.wrReg .stat 0xBF) { configured loopParams with ovf := true }) (·.ovf) = some true ∧
    (Instr.wrReg .stat 0xBF).isTransfer = false ∧ (0xBF : Byte).getLsbD 6 = false := by decide
theorem witness_SelectPinLeftToHost :
    (counted 0).params.pinsDistinct = true ∧ (counted 0).point = .idle ∧
    after (exec .beginCmd (counted 0)) (fun t => bitOf t.port 3) = some true ∧
    Instr.beginCmd.writtenReg ≠ some .port := by decide
theorem witness_ReadReturnsRegister :
    (configured loopParams).point = .idle ∧
    ∀ r ∈ [Reg.ctrl, .stat, .data, .ddr, .port, .sreg], regExists (configured loopParams).params.variant r = true := by
  decide
theorem witness_ReadReturnsRegister_hctrl :
    (counted 0).point = .idle ∧ regExists (counted 0).params.variant .hctrl = true := by decide
theorem witness_WriteFollowsRegisterTable :
    (configured loopParams).point = .idle ∧ (configured loopParams).params.variant = .usi ∧
    (counted 0).point = .idle ∧ (counted 0).params.variant = .hwspi := by decide
/-- The boundaries of the `CTRL` and `PORT` clauses: no strobe, a strobe that is admitted, one that is refused; a clock
pin that changes and one that does not. -/
theorem witness_WriteFollowsRegisterTable_clauses :
    after (exec (.wrReg .ctrl 0x1A) (configured loopParams)) (·.cnt) = some 0 ∧
    after (exec (.wrReg .ctrl 0x1B) (configured loopParams)) (·.cnt) = some 1 ∧
    refusal (exec (.wrReg .ctrl 0x13) (configured loopParams)) = some .clockNotConfigured ∧
    refusal (exec (.wrReg .port 0x04) (configured loopParams)) = some .manualClockEdge ∧
    after (exec (.wrReg .port 0xFB) (configured loopParams)) (·.port) = some 0xFB := by decide
theorem witness_BitOpsAreOneRegisterWrite :
    Reg.port.bitAccessible = true ∧ (configured loopParams).point = .idle ∧
    regExists (configured loopParams).params.variant .port = true := by decide
theorem witness_SetBitsSetsMaskedBits :
    (0xFE : Byte).getLsbD 0 = false ∧
    bitOf ((configured loopParams).port ||| 0xFB) 2 = bitOf (configured loopParams).port 2 ∧
    after (exec (.setBits .port 0xFB) (configured loopParams)) (·.port) = some 0xFB := by decide
theorem witness_ClrBitsClearsMaskedBits :
    bitOf ((configured loopParams).port &&& ~~~0xFF) 2 = bitOf (configured loopParams).port 2 ∧
    after (exec (.clrBits .port 0xFF) (configured loopParams)) (·.port) = some 0x00 := by decide
theorem witness_RegisterOfOtherVariantRefused :
    (counted 0).point = .idle ∧ (counted 0).params.variant = .hwspi ∧
    (configured loopParams).point = .idle ∧ (configured loopParams).params.variant = .usi := by decide
theorem witness_ManualClockEdgeRefused :
    (configured loopParams).point = .idle ∧ (configured loopParams).params.variant = .usi ∧
    (configured loopParams).cs1 = true ∧
    bitOf 0x04 (configured loopParams).params.pinSck ≠
      bitOf (configured loopParams).port (configured loopParams).params.pinSck ∧
    (launch loopParams 0).cs1 = false := by decide
theorem witness_ManualClockEdgeRefused_clear :
    bitOf ({ configured loopParams with port := 0x04 } : State).port 2 = true ∧ bitOf 0x04 2 = true := by decide
theorem witness_StrobeTogglesCountsAndShifts :
    (configured loopParams).point = .idle ∧ (configured loopParams).params.variant = .usi ∧
    (configured loopParams).clkCfg = true ∧ (configured loopParams).LatchHolds ∧
    (!(configured loopParams).sck) ≠ (configured loopParams).cs0 := by decide
theorem witness_StrobeTogglesCountsAndShifts_setup :
    ({ configured loopParams with port := 0x04, cnt := 15 } : State).clkCfg = true ∧
    ({ configured loopParams with port := 0x04, cnt := 15 } : State).LatchHolds ∧
    (!({ configured loopParams with port := 0x04, cnt := 15 } : State).sck) =
      ({ configured loopParams with port := 0x04, cnt := 15 } : State).cs0 := by decide
theorem witness_StrobeWithoutClockRefused :
    (launch loopParams 0).point = .idle ∧ (launch loopParams 0).params.variant = .usi ∧ (0x0B : Byte).getLsbD 0 = true ∧
    (((launch loopParams 0).cs1 || (0x0B : Byte).getLsbD 3) && ((launch loopParams 0).clk || (0x0B : Byte).getLsbD 1) &&
      bitOf (launch loopParams 0).ddr (launch loopParams 0).params.pinSck) = false ∧
    ((0x03 : Byte).getLsbD 3 && (0x03 : Byte).getLsbD 1 &&
      bitOf (configured loopParams).ddr (configured loopParams).params.pinSck) = false := by decide
theorem witness_BeginConfiguresEngine :
    (launch loopParams 0).point = .idle ∧ (launch loopParams 0).params.variant = .usi ∧
    (launch loopParams 0).params.pinsDistinct = true ∧ (launch loopParams 0).LatchHolds ∧
    (launch loopParams 0).AtRest := by decide
theorem witness_BeginIsIdempotent : ∃ t, exec .beginCmd (launch loopParams 0) = .next t := next_of_after (by decide)
theorem witness_SetModeWritesClockSourceBit :
    (configured loopParams).point = .idle ∧ (configured loopParams).params.variant = .usi := by decide
theorem witness_ModesNarrowToClockSource :
    (configured loopParams).params.variant = .usi ∧ DataMode.mode0 ≠ .mode1 ∧ DataMode.mode3 ≠ .mode1 ∧
    ∃ t, exec (.setMode .mode0) (configured loopParams) = .next t :=
  ⟨by decide, by decide, by decide, next_of_after (by decide)⟩
theorem witness_EndClearsWireMode :
    (configured loopParams).point = .idle ∧ (configured loopParams).params.variant = .usi ∧
    (configured loopParams).LatchHolds := by decide
/-- `Xfer8ExchangesOneByte`, `Xfer16ExchangesTwoBytes`, `WireShowsBytesMsbFirst`, in either wiring. -/
theorem witness_transfers :
    (configured loopParams).ReadyToTransfer ∧ (configured Params.default).ReadyToTransfer := by decide
/-- `XferBufExchangesInPlace`, `LoopbackIsIdentity`, `BufferMatchesSingleTransfers`, `ClockLineReturns`: a buffer that
ends with the last byte of memory. -/
theorem witness_buffers :
    bufferState.ReadyToTransfer ∧ bufferState.params.wiring = .loopback ∧ (2 : Word) ≠ 0 ∧
    (0xFFFE : Addr).toNat + (2 : Word).toNat ≤ 2 ^ 16 ∧ bufferHolds bufferState.mem 0xFFFE 2 = true ∧
    memGet bufferState.mem ((0xFFFE : Addr).toNat + ((2 : Word).toNat - 1)) = some 0x34 ∧
    (List.range (2 : Word).toNat).map (fun k => memGet bufferState.mem ((0xFFFE : Addr).toNat + k)) =
      [(0x12 : Byte), 0x34].map some := by decide
theorem witness_EmptyBufferIsNoOp :
    (launch loopParams 0).point = .idle ∧ (launch loopParams 0).params.variant = .usi := by decide
theorem witness_TransferAdmission :
    (Instr.xferBuf 0xFFFF 2).isTransfer = true ∧ (counted 0).params.variant = .hwspi ∧
    (launch loopParams 0).configured = false ∧ (configured loopParams).configured = true ∧
    2 ^ 16 < (0xFFFF : Addr).toNat + (2 : Word).toNat := by decide
theorem witness_UnwrittenByteFaults :
    ({ bufferState with mem := [(0xFFFE, 0x12)] } : State).ReadyToTransfer ∧ 1 < (2 : Word).toNat ∧
    (memGet [(0xFFFE, 0x12)] ((0xFFFE : Addr).toNat + 0)).isSome = true ∧
    memGet [(0xFFFE, 0x12)] ((0xFFFE : Addr).toNat + 1) = none := by decide
theorem witness_TransferFrame :
    (Instr.xferBuf 0xFFFE 2).isTransfer = true ∧ ∃ t, exec (.xferBuf 0xFFFE 2) bufferState = .next t :=
  ⟨by decide, next_of_after (by decide)⟩
theorem witness_HangNeverEnds :
    hangState.AtRest ∧ hangState.params.variant = .usi ∧ hangState.configured = true ∧
    hangState.params.hwFaultNoOverflow = true ∧ hangState.fetch = some 0x0400000055 ∧
    decode 0x0400000055 = .ok (.xfer8 0x55) ∧ (Instr.xfer8 0x55).startsByte hangState = true :=
  ⟨by decide, by decide, by decide, by decide, by decide, by rfl, by rfl⟩
/-- The HWSPI statements: at rest, in the variant, pins distinct; counts 0, 1, 254 and 255 are the boundaries. -/
theorem witness_hw :
    (counted 0).AtRest ∧ (counted 0).params.variant = .hwspi ∧ (counted 0).params.pinsDistinct = true ∧
    (counted 1).AtRest ∧ (counted 254).initialized ≠ 255 ∧ (counted 255).initialized = 255 ∧
    (counted 255).point = .idle := by decide
theorem witness_hw_boundaries :
    after (exec .beginCmd (counted 254)) (·.initialized) = some 255 ∧
    refusal (exec .beginCmd (counted 255)) = some .refcountSaturated ∧
    after (exec .endCmd (counted 0)) (·.initialized) = some 0 ∧
    after (exec .endCmd (counted 2)) (·.initialized) = some 1 := by decide
theorem witness_EnabledIffReferenced :
    ((counted 0).spe = true ↔ 0 < (counted 0).initialized.toNat) ∧ ∃ t, exec .beginCmd (counted 0) = .next t :=
  ⟨by decide, next_of_after (by decide)⟩
theorem witness_CommandsOutsideVariantRefused :
    (launch loopParams 0).params.variant = .usi ∧ (counted 0).params.variant = .hwspi := by decide
theorem witness_AttachAndDetachRefused :
    (launch loopParams 0x1200000000).params.variant = .usi ∧ (counted 255).params.variant = .hwspi := by decide
theorem witness_UseIntRegistersLine :
    (counted 0).params.intMaskTable.lookup 1 = some 1 ∧ (counted 0).params.intMaskTable.lookup 7 = none := by decide
theorem witness_NoUseIntDeregistersLine :
    (counted 0).interruptMode ≠ .all ∧ ({ counted 0 with interruptMode := .all } : State).interruptMode = .all := by
  decide
theorem witness_AllModeAbsorbs :
    ∃ t, exec .endCmd { counted 1 with
      interruptMode := .all, params := { hwParams with endResetsIntMode := true } } = .next t ∧
      t.interruptMode = .none := ⟨_, rfl, by decide⟩
theorem witness_CommandIsItsSteps :
    (launch hwParams 0x0100000000).fetch = some 0x0100000000 ∧ decode 0x0100000000 = .ok .beginCmd ∧
    after (Sys2Proof.core.run 9 (launch hwParams 0x0100000000)) (fun t => (t.initialized, t.cp)) = some (1, 1) :=
  ⟨by decide, by rfl, by decide⟩
/-- A two-byte buffer whose second byte holds no value: `k = 1`. -/
theorem witness_EarlierBytesLandBeforeAFault :
    ({ configured loopParams with cmds := [0x06FFFE0002], mem := [(0xFFFE, 0x12)] } : State).ReadyToTransfer ∧
    ({ configured loopParams with cmds := [0x06FFFE0002], mem := [(0xFFFE, 0x12)] } : State).fetch =
      some 0x06FFFE0002 ∧
    decode 0x06FFFE0002 = .ok (.xferBuf 0xFFFE 2) ∧
    faultOf (Sys2Proof.core.run 3 { configured loopParams with
      cmds := [0x06FFFE0002], mem := [(0xFFFE, 0x12)] }) = some (.memNoValue 0xFFFF) :=
  ⟨by decide, by decide, by rfl, by decide⟩
theorem witness_SelectLineFollowsPins :
    (counted 0).point = .idle ∧ (counted 0).params.pinsDistinct = true ∧ (counted 0).params.variant = .hwspi ∧
    (counted 0).saved = none ∧ (counted 0).initialized = 0 := by decide
theorem witness_StrobeMovesTheLines :
    (configured loopParams).point = .idle ∧ (configured loopParams).clkCfg = true ∧
    (configured loopParams).LatchHolds ∧ (configured loopParams).configured = true ∧
    (configured loopParams).sck = (configured loopParams).cs0 := by decide

end Sys2Proof.Tests
end

section
/-! The sequencer's own statements (spec/00_scope.md R7, R8; spec/10_state.md R30, R36): what a micro-operation does to the
parameters of the run and to `CP`, and how the steps of a run come to `exec`. -/

namespace Sys2Proof.Machine

/-- `t` is of the same run as `s`, at the same `CP`. -/
structure SameRun (s t : State) : Prop where
  params : t.params = s.params
  cmds : t.cmds = s.cmds
  cp : t.cp = s.cp

/-- What a micro-operation of a command does to the run (R30, R36): the command completes, or it goes on at a point of its
own. -/
inductive Advances (s : State) : State → Prop
  | completes (u : State) (h : SameRun s u) : Advances s u.complete
  | goesOn (u : State) (p : Point) (h : SameRun s u) (hp : p ≠ .idle) : Advances s (u.goto p)

theorem Advances.params {s t : State} : Advances s t → t.params = s.params
  | .completes _ h | .goesOn _ _ h _ => h.params

theorem Advances.cmds {s t : State} : Advances s t → t.cmds = s.cmds
  | .completes _ h | .goesOn _ _ h _ => h.cmds

theorem Advances.pointer {s t : State} (h : Advances s t) :
    (t.cp = s.cp + 1 ∧ t.point = .idle) ∨ (t.cp = s.cp ∧ t.point ≠ .idle) := by
  cases h with
  | completes u h => exact .inl ⟨by simp [h.cp], rfl⟩
  | goesOn u p h hp => exact .inr ⟨h.cp, hp⟩

/-- A command that goes on is the one at `CP` afterwards too. -/
theorem Advances.fetch_of_point {s t : State} (h : Advances s t) (hp : t.point ≠ .idle) : t.fetch = s.fetch := by
  rcases h.pointer with ⟨-, hi⟩ | ⟨hcp, -⟩
  · exact absurd hi hp
  · simp only [State.fetch, h.cmds, hcp]

@[simp] theorem passYield_fetch (s : State) : s.passYield.fetch = s.fetch := by simp [State.fetch]

/-! ### What the operations keep of the run -/

theorem noteRead_sameRun (r : Reg) (s : State) : SameRun s (s.noteRead r) := ⟨by simp, by simp, by simp⟩

theorem regWrite_sameRun {r : Reg} {v : Byte} {s t : State} (h : regWrite r v s = .next t) : SameRun s t :=
  have f := regWrite_frame h
  ⟨f.params, f.cmds, f.cp⟩

theorem critExit_sameRun {s t : State} (h : critExit s = .next t) : SameRun s t := by
  obtain ⟨g, -, rfl⟩ := critExit_eq_next h
  exact ⟨rfl, rfl, rfl⟩

/-! ### The shapes of a micro-operation -/

/-- A register access, or the end of a section, and then the command's own bookkeeping. -/
theorem andThen_advances {o : Result} {g : State → State} {s t : State} (ho : ∀ u, o = .next u → SameRun s u)
    (hg : ∀ u, SameRun s u → Advances s (g u)) (h : andThen o (fun u => .next (g u)) = .next t) : Advances s t := by
  obtain ⟨u, hu, hk⟩ := andThen_eq_next h
  cases hk
  exact hg u (ho u hu)

theorem regWrite_goto_advances {r : Reg} {v : Byte} {p : Point} {s t : State} (hp : p ≠ .idle)
    (h : andThen (regWrite r v s) (fun u => .next (u.goto p)) = .next t) : Advances s t :=
  andThen_advances (fun _ => regWrite_sameRun) (fun u hu => .goesOn u p hu hp) h

theorem critExit_complete_advances {s t : State} (h : andThen (critExit s) (fun u => .next u.complete) = .next t) :
    Advances s t :=
  andThen_advances (fun _ => critExit_sameRun) (fun u hu => .completes u hu) h

/-- A register read whose value goes into a local. -/
theorem regRead_setLocals_advances {r : Reg} {l : Byte → State → Locals} {p : Point} {s t : State} (hp : p ≠ .idle)
    (h : regRead r (fun v u => .next ((u.setLocals (l v u)).goto p)) s = .next t) : Advances s t := by
  obtain ⟨-, hk⟩ := regRead_eq_next h
  cases hk
  have hu := noteRead_sameRun r s
  exact .goesOn _ _ ⟨hu.params, hu.cmds, hu.cp⟩ hp

/-- A memory read whose value goes into a local. -/
theorem memRead_setLocals_advances {a : Addr} {l : Byte → State → Locals} {p : Point} {s t : State} (hp : p ≠ .idle)
    (h : memRead a (fun v u => .next ((u.setLocals (l v u)).goto p)) s = .next t) : Advances s t := by
  obtain ⟨v, -, hk⟩ := memRead_eq_next h
  cases hk
  exact .goesOn _ _ ⟨rfl, rfl, rfl⟩ hp

theorem single_advances {f : State → Result} {s t : State} (hf : ∀ u, f s = .next u → SameRun s u)
    (h : single f s = .next t) : Advances s t := by
  obtain ⟨-, u, hu, rfl⟩ := single_eq_next h
  exact .completes u (hf u hu)

/-! ### The micro-operations, command by command -/

theorem microBeginUsi_advances {s t : State} (h : microBeginUsi s = .next t) : Advances s t := by
  unfold microBeginUsi at h
  split at h
  · exact regWrite_goto_advances (by simp) h
  · exact regWrite_goto_advances (by simp) h
  · exact regWrite_goto_advances (by simp) h
  · exact regWrite_goto_advances (by simp) h
  · exact andThen_advances (fun _ => regWrite_sameRun) (fun u hu => .completes u hu) h
  · cases h
  · cases h

theorem microBeginHw_advances {s t : State} (h : microBeginHw s = .next t) : Advances s t := by
  unfold microBeginHw at h
  split at h
  · split at h
    · cases h
    · cases h
      exact .goesOn _ _ ⟨rfl, rfl, rfl⟩ (by split <;> simp)
  · exact regWrite_goto_advances (by simp) h
  · exact regWrite_goto_advances (by simp) h
  · exact regWrite_goto_advances (by simp) h
  · exact regWrite_goto_advances (by simp) h
  · exact regWrite_goto_advances (by simp) h
  · exact regWrite_goto_advances (by simp) h
  · cases h
    exact .goesOn _ _ ⟨rfl, rfl, rfl⟩ (by simp)
  · exact critExit_complete_advances h
  · cases h
  · cases h

theorem microBegin_advances {s t : State} (h : microBegin s = .next t) : Advances s t := by
  unfold microBegin at h
  split at h
  · exact microBeginUsi_advances h
  · exact microBeginHw_advances h

theorem microEndHw_advances {s t : State} (h : microEndHw s = .next t) : Advances s t := by
  unfold microEndHw at h
  split at h
  · cases h
    exact .goesOn _ _ ⟨rfl, rfl, rfl⟩ (by split <;> simp)
  · cases h
    exact .goesOn _ _ ⟨rfl, rfl, rfl⟩ (by split <;> simp)
  · refine andThen_advances (fun _ => regWrite_sameRun) (fun u hu => .goesOn _ _ ?_ (by simp)) h
    exact ⟨by simp [hu.params], by simp [hu.cmds], by simp [hu.cp]⟩
  · exact critExit_complete_advances h
  · cases h
  · cases h

theorem microEnd_advances {s t : State} (h : microEnd s = .next t) : Advances s t := by
  unfold microEnd at h
  split at h
  · exact single_advances (fun _ => regWrite_sameRun) h
  · exact microEndHw_advances h

theorem setModeUsi_advances {m : DataMode} {s t : State} (h : setModeUsi m s = .next t) : Advances s t := by
  refine single_advances (fun u hu => ?_) h
  have hr : SameRun { s with dataMode := m } u := by
    split at hu <;> exact regWrite_sameRun hu
  exact ⟨hr.params, hr.cmds, hr.cp⟩

theorem execSetMode_advances {m : DataMode} {s t : State} (h : execSetMode m s = .next t) : Advances s t := by
  unfold execSetMode at h
  split at h
  · exact setModeUsi_advances h
  · cases h

theorem clockByte_advances {call ret : Nat} {l : ByteLine} {s t : State} (h : clockByte call ret l s = .next t) :
    Advances s t := by
  have hr := noteRead_sameRun .stat s
  rcases clockByte_eq_next h with ⟨-, u, hu, rfl⟩ | ⟨-, rfl⟩ | ⟨-, -, rfl⟩ | ⟨-, -, rfl⟩ | ⟨-, u, hu, rfl⟩ |
    ⟨-, u, hu, rfl⟩
  · exact .goesOn _ _ (regWrite_sameRun hu) (by simp)
  · exact .goesOn _ _ ⟨rfl, rfl, rfl⟩ (by simp)
  · exact .goesOn _ _ ⟨hr.params, hr.cmds, hr.cp⟩ (by simp)
  · exact .goesOn _ _ hr (by simp)
  · exact .goesOn _ _ (regWrite_sameRun hu) (by simp)
  · have hu' := critExit_sameRun hu
    exact .goesOn _ _ ⟨hu'.params, hu'.cmds, hu'.cp⟩ (by simp)

theorem microXfer8_advances {v : Byte} {s t : State} (h : microXfer8 v s = .next t) : Advances s t := by
  unfold microXfer8 at h
  split at h
  · obtain ⟨-, -, hb⟩ := admitTransfer_eq_next h
    exact regWrite_goto_advances (by simp) hb
  · exact clockByte_advances h
  · exact regRead_setLocals_advances (by simp) h
  · cases h
    exact .completes _ ⟨rfl, rfl, rfl⟩
  · cases h
  · cases h

theorem microXfer16_advances {w : Word} {s t : State} (h : microXfer16 w s = .next t) : Advances s t := by
  unfold microXfer16 at h
  split at h
  · obtain ⟨-, -, hb⟩ := admitTransfer_eq_next h
    exact regWrite_goto_advances (by simp) hb
  · exact clockByte_advances h
  · exact regRead_setLocals_advances (by simp) h
  · exact regWrite_goto_advances (by simp) h
  · exact clockByte_advances h
  · exact regRead_setLocals_advances (by simp) h
  · cases h
    exact .completes _ ⟨rfl, rfl, rfl⟩
  · cases h
  · cases h

theorem admitBuffer_eq_next {addr : Addr} {count : Word} {f : State → Result} {s t : State}
    (h : admitBuffer addr count f s = .next t) : addr.toNat + count.toNat ≤ 2 ^ 16 ∧ f s = .next t := by
  unfold admitBuffer at h
  split at h
  · next hb => exact ⟨hb, h⟩
  · cases h

theorem bufferHead_ne_idle (count : Word) (i : BitVec 16) : bufferHead count i ≠ .idle := by
  unfold bufferHead
  split <;> simp

theorem microBuffer_advances {addr : Addr} {count : Word} {s t : State} (h : microBuffer addr count s = .next t) :
    Advances s t := by
  unfold microBuffer at h
  split at h
  · obtain ⟨-, -, ha⟩ := admitTransfer_eq_next h
    obtain ⟨-, hb⟩ := admitBuffer_eq_next ha
    exact memRead_setLocals_advances (by simp) hb
  · refine andThen_advances (fun _ => regWrite_sameRun) (fun u hu => .goesOn _ _ ?_ (bufferHead_ne_idle _ _)) h
    exact ⟨hu.params, hu.cmds, hu.cp⟩
  · exact memRead_setLocals_advances (by simp) h
  · exact clockByte_advances h
  · exact regRead_setLocals_advances (by simp) h
  · exact regWrite_goto_advances (by simp) h
  · cases h
    exact .goesOn _ _ ⟨rfl, rfl, rfl⟩ (bufferHead_ne_idle _ _)
  · exact clockByte_advances h
  · exact regRead_setLocals_advances (by simp) h
  · cases h
    exact .completes _ ⟨rfl, rfl, rfl⟩
  · cases h
  · cases h

theorem emptyTransfer_advances {s t : State} (h : emptyTransfer s = .next t) : Advances s t := by
  unfold emptyTransfer at h
  split at h
  · cases h
  · refine single_advances (fun u hu => ?_) h
    cases hu
    exact ⟨rfl, rfl, rfl⟩

theorem microXferBuf_advances {addr : Addr} {count : Word} {s t : State} (h : microXferBuf addr count s = .next t) :
    Advances s t := by
  unfold microXferBuf at h
  split at h
  · exact emptyTransfer_advances h
  · exact microBuffer_advances h

theorem execRdReg_advances {r : Reg} {s t : State} (h : execRdReg r s = .next t) : Advances s t := by
  refine single_advances (fun u hu => ?_) h
  obtain ⟨-, hk⟩ := regRead_eq_next hu
  cases hk
  have hr := noteRead_sameRun r s
  exact ⟨hr.params, hr.cmds, hr.cp⟩

theorem execSetBits_advances {r : Reg} {m : Byte} {s t : State} (h : execSetBits r m s = .next t) : Advances s t := by
  unfold execSetBits at h
  split at h
  · exact single_advances (fun _ => regWrite_sameRun) h
  · cases h

theorem execClrBits_advances {r : Reg} {m : Byte} {s t : State} (h : execClrBits r m s = .next t) : Advances s t := by
  unfold execClrBits at h
  split at h
  · exact single_advances (fun _ => regWrite_sameRun) h
  · cases h

theorem microGuarded_advances {f : State → State} (hf : ∀ s, SameRun s (f s)) {s t : State}
    (h : microGuarded f s = .next t) : Advances s t := by
  unfold microGuarded at h
  split at h
  · cases h
    exact .goesOn _ _ ⟨rfl, rfl, rfl⟩ (by simp)
  · cases h
    exact .goesOn _ _ (hf s) (by simp)
  · exact critExit_complete_advances h
  · cases h
  · cases h

theorem microUseInt_advances {n : Byte} {s t : State} (h : microUseInt n s = .next t) : Advances s t := by
  unfold microUseInt at h
  split at h
  · cases h
  · exact microGuarded_advances (fun u => ⟨by simp, by simp, by simp⟩) h

theorem microNoUseInt_advances {n : Byte} {s t : State} (h : microNoUseInt n s = .next t) : Advances s t := by
  unfold microNoUseInt at h
  split at h
  · cases h
  · exact microGuarded_advances (fun u => ⟨by simp, by simp, by simp⟩) h

theorem undescribed_ne_next (s t : State) : undescribed s ≠ .next t := by
  unfold undescribed
  split <;> simp

/-- Everything a micro-operation that answers a next state does to the run (R30, R36). -/
theorem microOp_advances {i : Instr} {s t : State} (h : microOp i s = .next t) : Advances s t := by
  cases i with
  | beginCmd => exact microBegin_advances h
  | endCmd => exact microEnd_advances h
  | setMode m => exact execSetMode_advances h
  | xfer8 v => exact microXfer8_advances h
  | xfer16 w => exact microXfer16_advances h
  | xferBuf addr count => exact microXferBuf_advances h
  | rdReg r => exact execRdReg_advances h
  | wrReg r v => exact single_advances (fun _ => regWrite_sameRun) h
  | setBits r m => exact execSetBits_advances h
  | clrBits r m => exact execClrBits_advances h
  | useInt n => exact microUseInt_advances h
  | noUseInt n => exact microNoUseInt_advances h
  | attachInt => exact absurd h (undescribed_ne_next s t)
  | detachInt => exact absurd h (undescribed_ne_next s t)

/-- Everything a step that answers a next state does to the run (R30, R36). -/
theorem step_advances {s t : State} (h : step s = .next t) : Advances s.passYield t := by
  obtain ⟨w, i, -, -, hm⟩ := step_eq_next h
  exact microOp_advances hm

/-! ### The steps of a run -/

/-- The run goes on from a step's next state. -/
theorem run_succ_of_next {M : Host.Core} {s t : M.State} (h : M.step s = .next t) (k : Nat) :
    M.run (k + 1) s = M.run k t := by
  simp [Host.Core.run, h]

theorem run_one (M : Host.Core) (s : M.State) : M.run 1 s = M.step s := by
  cases h : M.step s <;> simp [Host.Core.run, h]

/-- Where the word at `CP` decodes to a command, one step of the run is the command's next micro-operation. -/
theorem run_one_of_decode {s : State} {w : CmdWord} {i : Instr} (hf : s.fetch = some w) (hd : decode w = .ok i) :
    Sys2Proof.core.run 1 s = microOp i s.passYield :=
  (run_one Sys2Proof.core s).trans (step_of_decode hf hd)

/-- The steps of a run come to the command's micro-operations, up to any number of them: by induction on that number, since
a step that leaves the command in progress leaves it at `CP`. -/
theorem exists_run_eq_runCommand {w : CmdWord} {i : Instr} (hd : decode w = .ok i) (n : Nat) {s : State}
    (hf : s.fetch = some w) :
    ∃ k, 0 < k ∧ Sys2Proof.core.run k s = runCommand (n + 1) (microOp i) s.passYield := by
  induction n generalizing s with
  | zero => exact ⟨1, one_pos, by rw [runCommand_one, run_one_of_decode hf hd]⟩
  | succ n ih =>
    cases hm : microOp i s.passYield with
    | next t =>
      by_cases hp : t.point = .idle
      · exact ⟨1, one_pos, by rw [runCommand_done hm hp, run_one_of_decode hf hd, hm]⟩
      · have hft : t.fetch = some w := by
          rw [(microOp_advances hm).fetch_of_point hp, passYield_fetch, hf]
        obtain ⟨k, -, hk⟩ := ih hft
        have hs : step s = .next t := (step_of_decode hf hd).trans hm
        exact ⟨k + 1, k.succ_pos, (run_succ_of_next (M := Sys2Proof.core) hs k).trans
          (hk.trans (runCommand_continue hm hp).symm)⟩
    | fault r => exact ⟨1, one_pos, by rw [run_one_of_decode hf hd, runCommand_succ, hm, andThen_fault]⟩
    | refused r => exact ⟨1, one_pos, by rw [run_one_of_decode hf hd, runCommand_succ, hm, andThen_refused]⟩

/-- Settles O9: a step is a micro-operation, which completes its command or goes on at a point of it (`Advances`). -/
theorem pointerAdvancesByOneOrStays : Obligations.PointerAdvancesByOneOrStays := by
  intro s t h
  simpa using (step_advances h).pointer

/-- Settles O57: `exec` is the command's micro-operations up to `microCount`, and the steps of the run come to them. -/
theorem commandIsItsSteps : Obligations.CommandIsItsSteps := by
  intro s w i hf hd
  obtain ⟨n, hn⟩ := Nat.exists_eq_succ_of_ne_zero (microCount_pos i).ne'
  rw [exec_eq_runCommand, hn]
  exact exists_run_eq_runCommand hd n hf

/-- Settles O6: the word at `CP` is the one the step fetches, and a word that is there is not the end of the run. -/
theorem stepRunsDecodedCommand : Obligations.StepRunsDecodedCommand :=
  fun _ _ _ _ hf hd => step_of_decode hf hd

end Sys2Proof.Machine
end

section
/-! What the commands do on the bus side of the machine, the register surface and memory (spec/10_state.md R10 to R25, R33,
R34): a micro-operation makes at most one access that changes anything there, so what every single access keeps, every step
and every command keep. -/

namespace Sys2Proof

open Sys2Proof.Config

/-- The registers that a command writes, in the given variant (R71 to R75, R83 to R89, R103 to R108, R114, R116). -/
def Instr.writes (v : Variant) : Instr → List Reg
  | .beginCmd =>
    match v with
    | .usi => [.ctrl, .ddr]
    | .hwspi => [.port, .ddr, .hctrl]
  | .endCmd =>
    match v with
    | .usi => [.ctrl]
    | .hwspi => [.hctrl]
  | .setMode _ => [.ctrl]
  | .xfer8 _ | .xfer16 _ | .xferBuf _ _ => [.data, .stat, .ctrl]
  | .wrReg r _ | .setBits r _ | .clrBits r _ => [r]
  | .rdReg _ | .useInt _ | .noUseInt _ | .attachInt | .detachInt => []

end Sys2Proof

namespace Sys2Proof.Machine

open Sys2Proof.Config

/-- `t` differs from `s` only in what the sequencer, the driver and the interrupt unit hold, and its history is that of `s`
with further events at the end (R33). -/
structure SameBus (s t : State) : Prop where
  params : t.params = s.params
  ctrl : t.ctrl = s.ctrl
  ovf : t.ovf = s.ovf
  dr : t.dr = s.dr
  dol : t.dol = s.dol
  ddr : t.ddr = s.ddr
  port : t.port = s.port
  mem : t.mem = s.mem
  history : s.history <+: t.history

/-- What a micro-operation does on the bus side (R109, R140): nothing, or a write of one of the registers `W`, or of one
byte of memory, with the sequencer's own work before and after it. -/
inductive Access (W : List Reg) (s : State) : State → Prop
  | quiet {t : State} (h : SameBus s t) : Access W s t
  | register {r : Reg} {v : Byte} {a b t : State} (hr : r ∈ W) (ha : SameBus s a) (hw : regWrite r v a = .next b)
      (hb : SameBus b t) : Access W s t
  | memory {a : Addr} {v : Byte} {t : State} (h : SameBus (s.memWrite a v) t) : Access W s t

/-! ### What leaves the bus side alone -/

theorem SameBus.refl (s : State) : SameBus s s := by constructor <;> simp

theorem SameBus.trans {s t u : State} (h : SameBus s t) (g : SameBus t u) : SameBus s u :=
  ⟨g.params.trans h.params, g.ctrl.trans h.ctrl, g.ovf.trans h.ovf, g.dr.trans h.dr, g.dol.trans h.dol,
    g.ddr.trans h.ddr, g.port.trans h.port, g.mem.trans h.mem, h.history.trans g.history⟩

theorem goto_sameBus (p : Point) (s : State) : SameBus s (s.goto p) := by constructor <;> simp

theorem complete_sameBus (s : State) : SameBus s s.complete := by constructor <;> simp

theorem setLocals_goto_sameBus (l : Locals) (p : Point) (s : State) : SameBus s ((s.setLocals l).goto p) := by
  constructor <;> simp

theorem setPhase_goto_sameBus (q : Phase) (p : Point) (s : State) : SameBus s ((s.setPhase q).goto p) := by
  constructor <;> simp

theorem setRet_complete_sameBus (v : Word) (s : State) : SameBus s (s.setRet v).complete := by constructor <;> simp

theorem critEnter_sameBus (s : State) : SameBus s s.critEnter := by constructor <;> simp

theorem critExit_sameBus {s t : State} (h : critExit s = .next t) : SameBus s t := by
  obtain ⟨g, -, rfl⟩ := critExit_eq_next h
  constructor <;> simp

theorem noteRead_history (r : Reg) (s : State) : (s.noteRead r).history = s.history ++ [.regR r (s.regValue r)] := by
  cases r <;> rfl

theorem noteRead_sameBus (r : Reg) (s : State) : SameBus s (s.noteRead r) := by
  constructor <;> simp [noteRead_history]

theorem passYield_sameBus (s : State) : SameBus s s.passYield := by
  obtain ⟨n, k, h⟩ := passYield_eq s
  rw [h]
  constructor <;> simp

/-! ### The shapes of a micro-operation -/

theorem regWrite_access {W : List Reg} {r : Reg} {v : Byte} {g : State → State} {s t : State} (hr : r ∈ W)
    (hg : ∀ u, SameBus u (g u)) (h : andThen (regWrite r v s) (fun u => .next (g u)) = .next t) : Access W s t := by
  obtain ⟨u, hu, hk⟩ := andThen_eq_next h
  cases hk
  exact .register hr (.refl s) hu (hg u)

theorem regWrite_goto_access {W : List Reg} {r : Reg} {v : Byte} {p : Point} {s t : State} (hr : r ∈ W)
    (h : andThen (regWrite r v s) (fun u => .next (u.goto p)) = .next t) : Access W s t :=
  regWrite_access hr (goto_sameBus p) h

/-- A register read whose value goes into a local. -/
theorem regRead_access {W : List Reg} {r : Reg} {l : Byte → State → Locals} {p : Point} {s t : State}
    (h : regRead r (fun v u => .next ((u.setLocals (l v u)).goto p)) s = .next t) : Access W s t := by
  obtain ⟨-, hk⟩ := regRead_eq_next h
  cases hk
  exact .quiet ((noteRead_sameBus r s).trans (setLocals_goto_sameBus _ _ _))

/-- A memory read whose value goes into a local. -/
theorem memRead_access {W : List Reg} {a : Addr} {l : Byte → State → Locals} {p : Point} {s t : State}
    (h : memRead a (fun v u => .next ((u.setLocals (l v u)).goto p)) s = .next t) : Access W s t := by
  obtain ⟨v, -, hk⟩ := memRead_eq_next h
  cases hk
  exact .quiet (by constructor <;> simp)

theorem critExit_complete_access {W : List Reg} {s t : State}
    (h : andThen (critExit s) (fun u => .next u.complete) = .next t) : Access W s t := by
  obtain ⟨u, hu, hk⟩ := andThen_eq_next h
  cases hk
  exact .quiet ((critExit_sameBus hu).trans (complete_sameBus u))

theorem critEnter_goto_access {W : List Reg} (p : Point) (s : State) : Access W s (s.critEnter.goto p) :=
  .quiet ((critEnter_sameBus s).trans (goto_sameBus p _))

/-- A command that is one register write. -/
theorem single_regWrite_access {W : List Reg} {r : Reg} {v : State → Byte} {s t : State} (hr : r ∈ W)
    (h : single (fun u => regWrite r (v u) u) s = .next t) : Access W s t := by
  obtain ⟨-, u, hu, rfl⟩ := single_eq_next h
  exact .register hr (.refl s) hu (complete_sameBus u)

/-! ### The micro-operations, command by command -/

theorem microBeginUsi_access {s t : State} (h : microBeginUsi s = .next t) : Access [.ctrl, .ddr] s t := by
  unfold microBeginUsi at h
  split at h
  · exact regWrite_goto_access (by simp) h
  · exact regWrite_goto_access (by simp) h
  · exact regWrite_goto_access (by simp) h
  · exact regWrite_goto_access (by simp) h
  · exact regWrite_access (by simp) complete_sameBus h
  · cases h
  · cases h

theorem microBeginHw_access {s t : State} (h : microBeginHw s = .next t) : Access [.port, .ddr, .hctrl] s t := by
  unfold microBeginHw at h
  split at h
  · split at h
    · cases h
    · cases h
      exact critEnter_goto_access _ s
  · exact regWrite_goto_access (by simp) h
  · exact regWrite_goto_access (by simp) h
  · exact regWrite_goto_access (by simp) h
  · exact regWrite_goto_access (by simp) h
  · exact regWrite_goto_access (by simp) h
  · exact regWrite_goto_access (by simp) h
  · cases h
    exact .quiet (by constructor <;> simp)
  · exact critExit_complete_access h
  · cases h
  · cases h

theorem microBegin_access {s t : State} (h : microBegin s = .next t) :
    Access (Instr.writes s.params.variant .beginCmd) s t := by
  unfold microBegin at h
  split at h
  · next hv => simpa [Instr.writes, hv] using microBeginUsi_access h
  · next hv => simpa [Instr.writes, hv] using microBeginHw_access h

theorem microEndHw_access {s t : State} (h : microEndHw s = .next t) : Access [.hctrl] s t := by
  unfold microEndHw at h
  split at h
  · cases h
    exact critEnter_goto_access _ s
  · cases h
    exact .quiet (by constructor <;> simp)
  · exact regWrite_access (by simp) (fun u => by constructor <;> simp) h
  · exact critExit_complete_access h
  · cases h
  · cases h

theorem microEnd_access {s t : State} (h : microEnd s = .next t) :
    Access (Instr.writes s.params.variant .endCmd) s t := by
  unfold microEnd at h
  split at h
  · next hv => simpa [Instr.writes, hv] using single_regWrite_access (List.mem_singleton_self _) h
  · next hv => simpa [Instr.writes, hv] using microEndHw_access h

theorem execSetMode_access {m : DataMode} {s t : State} (h : execSetMode m s = .next t) : Access [.ctrl] s t := by
  unfold execSetMode at h
  split at h
  · obtain ⟨-, u, hu, rfl⟩ := single_eq_next h
    have hm : SameBus s { s with dataMode := m } := by constructor <;> simp
    split at hu <;> exact .register (by simp) hm hu (complete_sameBus u)
  · cases h

theorem clockByte_access {call ret : Nat} {l : ByteLine} {s t : State} (h : clockByte call ret l s = .next t) :
    Access [.data, .stat, .ctrl] s t := by
  have hr := noteRead_sameBus .stat s
  rcases clockByte_eq_next h with ⟨-, u, hu, rfl⟩ | ⟨-, rfl⟩ | ⟨-, -, rfl⟩ | ⟨-, -, rfl⟩ | ⟨-, u, hu, rfl⟩ |
    ⟨-, u, hu, rfl⟩
  · exact .register (by simp) (.refl s) hu (goto_sameBus _ u)
  · exact .quiet ((critEnter_sameBus s).trans (setPhase_goto_sameBus _ _ _))
  · exact .quiet (hr.trans (setPhase_goto_sameBus _ _ _))
  · exact .quiet (hr.trans (goto_sameBus _ _))
  · exact .register (by simp) (.refl s) hu (goto_sameBus _ u)
  · exact .quiet ((critExit_sameBus hu).trans (setPhase_goto_sameBus _ _ u))

theorem microXfer8_access {v : Byte} {s t : State} (h : microXfer8 v s = .next t) :
    Access [.data, .stat, .ctrl] s t := by
  unfold microXfer8 at h
  split at h
  · obtain ⟨-, -, hb⟩ := admitTransfer_eq_next h
    exact regWrite_goto_access (by simp) hb
  · exact clockByte_access h
  · exact regRead_access h
  · cases h
    exact .quiet (setRet_complete_sameBus _ s)
  · cases h
  · cases h

theorem microXfer16_access {w : Word} {s t : State} (h : microXfer16 w s = .next t) :
    Access [.data, .stat, .ctrl] s t := by
  unfold microXfer16 at h
  split at h
  · obtain ⟨-, -, hb⟩ := admitTransfer_eq_next h
    exact regWrite_goto_access (by simp) hb
  · exact clockByte_access h
  · exact regRead_access h
  · exact regWrite_goto_access (by simp) h
  · exact clockByte_access h
  · exact regRead_access h
  · cases h
    exact .quiet (setRet_complete_sameBus _ s)
  · cases h
  · cases h

theorem microBuffer_access {addr : Addr} {count : Word} {s t : State} (h : microBuffer addr count s = .next t) :
    Access [.data, .stat, .ctrl] s t := by
  unfold microBuffer at h
  split at h
  · obtain ⟨-, -, ha⟩ := admitTransfer_eq_next h
    obtain ⟨-, hb⟩ := admitBuffer_eq_next ha
    exact memRead_access hb
  · exact regWrite_access (by simp) (fun u => setLocals_goto_sameBus _ _ u) h
  · exact memRead_access h
  · exact clockByte_access h
  · exact regRead_access h
  · exact regWrite_goto_access (by simp) h
  · cases h
    exact .memory (setLocals_goto_sameBus _ _ _)
  · exact clockByte_access h
  · exact regRead_access h
  · cases h
    exact .memory (complete_sameBus _)
  · cases h
  · cases h

theorem microXferBuf_access {addr : Addr} {count : Word} {s t : State} (h : microXferBuf addr count s = .next t) :
    Access [.data, .stat, .ctrl] s t := by
  unfold microXferBuf at h
  split at h
  · unfold emptyTransfer at h
    split at h
    · cases h
    · obtain ⟨-, u, hu, rfl⟩ := single_eq_next h
      cases hu
      exact .quiet (complete_sameBus s)
  · exact microBuffer_access h

theorem execRdReg_access {W : List Reg} {r : Reg} {s t : State} (h : execRdReg r s = .next t) : Access W s t := by
  obtain ⟨-, u, hu, rfl⟩ := single_eq_next h
  obtain ⟨-, hk⟩ := regRead_eq_next hu
  cases hk
  exact .quiet ((noteRead_sameBus r s).trans (setRet_complete_sameBus _ _))

theorem execSetBits_access {r : Reg} {m : Byte} {s t : State} (h : execSetBits r m s = .next t) : Access [r] s t := by
  unfold execSetBits at h
  split at h
  · exact single_regWrite_access (List.mem_singleton_self r) h
  · cases h

theorem execClrBits_access {r : Reg} {m : Byte} {s t : State} (h : execClrBits r m s = .next t) : Access [r] s t := by
  unfold execClrBits at h
  split at h
  · exact single_regWrite_access (List.mem_singleton_self r) h
  · cases h

theorem microGuarded_access {W : List Reg} {f : State → State} (hf : ∀ s, SameBus s (f s)) {s t : State}
    (h : microGuarded f s = .next t) : Access W s t := by
  unfold microGuarded at h
  split at h
  · cases h
    exact critEnter_goto_access _ s
  · cases h
    exact .quiet ((hf s).trans (goto_sameBus _ _))
  · exact critExit_complete_access h
  · cases h
  · cases h

theorem microUseInt_access {W : List Reg} {n : Byte} {s t : State} (h : microUseInt n s = .next t) : Access W s t := by
  unfold microUseInt at h
  split at h
  · cases h
  · exact microGuarded_access (fun u => by constructor <;> simp) h

theorem microNoUseInt_access {W : List Reg} {n : Byte} {s t : State} (h : microNoUseInt n s = .next t) :
    Access W s t := by
  unfold microNoUseInt at h
  split at h
  · cases h
  · exact microGuarded_access (fun u => by constructor <;> simp) h

/-- Everything a micro-operation that answers a next state does on the bus side. -/
theorem microOp_access {i : Instr} {s t : State} (h : microOp i s = .next t) :
    Access (i.writes s.params.variant) s t := by
  cases i with
  | beginCmd => exact microBegin_access h
  | endCmd => exact microEnd_access h
  | setMode m => exact execSetMode_access h
  | xfer8 v => exact microXfer8_access h
  | xfer16 w => exact microXfer16_access h
  | xferBuf addr count => exact microXferBuf_access h
  | rdReg r => exact execRdReg_access h
  | wrReg r v => exact single_regWrite_access (v := fun _ => v) (List.mem_singleton_self r) h
  | setBits r m => exact execSetBits_access h
  | clrBits r m => exact execClrBits_access h
  | useInt n => exact microUseInt_access h
  | noUseInt n => exact microNoUseInt_access h
  | attachInt => exact absurd h (undescribed_ne_next s t)
  | detachInt => exact absurd h (undescribed_ne_next s t)

/-! ### What an access keeps -/

theorem bitOf_bitMask (m n : Fin 8) : bitOf (bitMask m) n = (m == n) := by decide +revert

@[simp] theorem bitOf_or (v w : Byte) (n : Fin 8) : bitOf (v ||| w) n = (bitOf v n || bitOf w n) := BitVec.getLsbD_or
@[simp] theorem bitOf_xor (v w : Byte) (n : Fin 8) : bitOf (v ^^^ w) n = (bitOf v n ^^ bitOf w n) := BitVec.getLsbD_xor
@[simp] theorem bitOf_and_not (v w : Byte) (n : Fin 8) : bitOf (v &&& ~~~w) n = (bitOf v n && !bitOf w n) := by
  simp [bitOf]

theorem pinsDistinct_sck_ss {p : Params} (h : p.pinsDistinct = true) : (p.pinSck == p.pinSs) = false := by
  simp only [Params.pinsDistinct, Bool.and_eq_true, bne_iff_ne] at h
  obtain ⟨⟨⟨⟨⟨-, -⟩, hss⟩, -⟩, -⟩, -⟩ := h
  simpa using hss

theorem strobe_history (s : State) : s.history <+: s.strobe.history := by
  unfold State.strobe State.edge
  split <;> simp [State.sampleEdge]

/-- What a write of the register `r` keeps of the others (R16, R18, R23 to R27, R101): a strobe changes no stored bit of
`CTRL`, toggles only the clock pin of `PORT` (R80) and never clears the overflow flag. -/
structure WritesOnly (r : Reg) (s t : State) : Prop where
  history : s.history <+: t.history
  ctrl : r ≠ .ctrl → t.ctrl = s.ctrl
  ovf : r ≠ .stat → s.ovf = true → t.ovf = true
  ddr : r ≠ .ddr → t.ddr = s.ddr
  portBit : r ≠ .port → ∀ n, (s.params.pinSck == n) = false → bitOf t.port n = bitOf s.port n
  gie : r ≠ .sreg → t.gie = s.gie
  hctrl : r ≠ .hctrl → t.hctrl = s.hctrl

theorem regWrite_writesOnly {r : Reg} {v : Byte} {s t : State} (h : regWrite r v s = .next t) : WritesOnly r s t := by
  obtain ⟨-, he⟩ := regWrite_eq_next h
  cases r with
  | ctrl =>
    rcases writeCtrl_eq_next he with ⟨-, rfl⟩ | ⟨-, -, rfl⟩
    · constructor <;> simp
    · exact {
        history := (by simp : s.history <+: _).trans (strobe_history _)
        ctrl := by simp
        ovf := fun _ ho => strobe_ovf_mono (by simpa using ho)
        ddr := by simp
        portBit := fun _ n hn => by simp [strobe_port, bitOf_bitMask, hn]
        gie := by simp
        hctrl := by simp }
  | port =>
    obtain ⟨-, rfl⟩ := writePort_eq_next he
    constructor <;> simp
  | stat | data | ddr | sreg | hctrl =>
    cases he
    constructor <;> simp

section
variable {W : List Reg} {s t : State}

theorem Access.params (h : Access W s t) : t.params = s.params := by
  cases h with
  | quiet h => exact h.params
  | register _ ha hw hb => rw [hb.params, (regWrite_frame hw).params, ha.params]
  | memory h => simpa using h.params

theorem Access.history (h : Access W s t) : s.history <+: t.history := by
  cases h with
  | quiet h => exact h.history
  | register _ ha hw hb => exact ha.history.trans ((regWrite_writesOnly hw).history.trans hb.history)
  | memory h => exact (List.prefix_append _ _).trans h.history

theorem Access.memWf (h : Access W s t) (hm : memWf s.mem = true) : memWf t.mem = true := by
  cases h with
  | quiet h => rwa [h.mem]
  | register _ ha hw hb => rwa [hb.mem, (regWrite_frame hw).mem, ha.mem]
  | memory h =>
    rw [h.mem]
    exact memWf_memSet s.mem _ _ hm

/-- The latch invariant rests on the bus side alone (R22). -/
theorem SameBus.latchHolds (h : SameBus s t) (hl : s.LatchHolds) : t.LatchHolds := by
  have hc : t.cs0 = s.cs0 := by simp only [State.cs0, State.ctrlByte, h.ctrl]
  have hk : t.sck = s.sck := by simp only [State.sck, h.port, h.params]
  rwa [State.LatchHolds, h.params, hk, hc, h.dol, h.dr]

theorem relatch_latchHolds (s : State) : s.relatch.LatchHolds := by
  intro hv hk
  have hs : s.params.variant = .usi ∧ s.sck = s.cs0 := by
    simpa [State.sck, State.cs0, State.ctrlByte] using And.intro hv hk
  simp [relatch_dol, hs]

/-- After a strobe the latch holds: it has followed at a setup edge, and is closed after a sampling edge (R80). -/
theorem strobe_latchHolds (s : State) : s.strobe.LatchHolds := by
  intro _ hk
  have hc : s.toggleSck.countStrobe.sck = s.toggleSck.countStrobe.cs0 := by
    simpa [State.strobe, State.sck, State.cs0, State.ctrlByte] using hk
  simp [State.strobe, State.edge, hc, State.setupEdge]

theorem regWrite_latchHolds {r : Reg} {v : Byte} (h : regWrite r v s = .next t) (hl : s.LatchHolds) :
    t.LatchHolds := by
  obtain ⟨-, he⟩ := regWrite_eq_next h
  cases r with
  | ctrl =>
    rcases writeCtrl_eq_next he with ⟨-, rfl⟩ | ⟨-, -, rfl⟩
    · exact relatch_latchHolds _
    · exact strobe_latchHolds _
  | data =>
    cases he
    exact relatch_latchHolds _
  | port =>
    obtain ⟨-, rfl⟩ := writePort_eq_next he
    exact relatch_latchHolds _
  | stat | ddr | sreg | hctrl =>
    cases he
    exact hl

theorem Access.latchHolds (h : Access W s t) (hl : s.LatchHolds) : t.LatchHolds := by
  cases h with
  | quiet h => exact h.latchHolds hl
  | register _ ha hw hb => exact hb.latchHolds (regWrite_latchHolds hw (ha.latchHolds hl))
  | memory h => exact h.latchHolds hl

theorem Access.ovf (h : Access W s t) (hW : Reg.stat ∉ W) (ho : s.ovf = true) : t.ovf = true := by
  cases h with
  | quiet h => rwa [h.ovf]
  | register hr ha hw hb =>
    rw [hb.ovf]
    exact (regWrite_writesOnly hw).ovf (fun hs => hW (hs ▸ hr)) (ha.ovf.trans ho)
  | memory h => rwa [h.ovf]

theorem Access.portBit {n : Fin 8} (h : Access W s t) (hW : Reg.port ∉ W) (hn : (s.params.pinSck == n) = false) :
    bitOf t.port n = bitOf s.port n := by
  cases h with
  | quiet h => rw [h.port]
  | register hr ha hw hb =>
    rw [hb.port, (regWrite_writesOnly hw).portBit (fun hp => hW (hp ▸ hr)) n (by rwa [ha.params]), ha.port]
  | memory h => rw [h.port]; rfl

theorem Access.ddr (h : Access W s t) (hW : Reg.ddr ∉ W) : t.ddr = s.ddr := by
  cases h with
  | quiet h => exact h.ddr
  | register hr ha hw hb => rw [hb.ddr, (regWrite_writesOnly hw).ddr (fun hd => hW (hd ▸ hr)), ha.ddr]
  | memory h => exact h.ddr

end

/-! ### From accesses to steps and commands -/

/-- A step is the interrupt agent's and then one access at most. -/
theorem step_access {s t : State} (h : step s = .next t) : ∃ W, Access W s.passYield t := by
  obtain ⟨w, i, -, -, hm⟩ := step_eq_next h
  exact ⟨_, microOp_access hm⟩

/-- Packaged induction: what every access that the command may make keeps, the command keeps. -/
theorem exec_keeps {P : State → Prop} {i : Instr} {s t : State} (h : exec i s = .next t)
    (hP : ∀ a b, Access (i.writes s.params.variant) a b → P a → P b) (hs : P s) : P t := by
  have hm : ∀ a b, P a ∧ a.params = s.params → microOp i a = .next b → P b ∧ b.params = s.params := by
    rintro a b ⟨ha, hp⟩ hab
    have hacc := microOp_access hab
    exact ⟨hP a b (hp ▸ hacc) ha, hacc.params.trans hp⟩
  have hy : ∀ a, P a ∧ a.params = s.params → P a.passYield ∧ a.passYield.params = s.params :=
    fun a ⟨ha, hp⟩ => ⟨hP a _ (.quiet (passYield_sameBus a)) ha, by simp [hp]⟩
  rw [exec_eq_runCommand] at h
  exact (runCommand_keeps hm hy _ s t ⟨hs, rfl⟩ h).1

/-- Settles O10: what a step does to the run, `Advances`, leaves its parameters alone. -/
theorem commandListNeverWritten : Obligations.CommandListNeverWritten := by
  intro s t h
  have ha := step_advances h
  exact ⟨ha.cmds.trans (by simp), ha.params.trans (by simp)⟩

/-- Settles O11: the interrupt agent and the access of a micro-operation append to the history. -/
theorem historyAppendOnly : Obligations.HistoryAppendOnly := by
  intro s t h
  obtain ⟨W, ha⟩ := step_access h
  obtain ⟨new, hn⟩ := (passYield_sameBus s).history.trans ha.history
  exact ⟨new, hn.symm⟩

/-- Settles O16: the one access of a micro-operation keeps the canonical form. -/
theorem memoryStaysCanonical : Obligations.MemoryStaysCanonical := by
  intro s t hm h
  obtain ⟨W, ha⟩ := step_access h
  exact ha.memWf (by simpa using hm)

/-- A command other than a transfer and a write of `STAT` writes `STAT` nowhere. -/
theorem stat_not_mem_writes {i : Instr} {v : Variant} (ht : i.isTransfer = false) (hw : i.writtenReg ≠ some .stat) :
    Reg.stat ∉ i.writes v := by
  cases i with
  | beginCmd | endCmd => cases v <;> simp [Instr.writes]
  | xfer8 _ | xfer16 _ | xferBuf _ _ => cases ht
  | wrReg r _ | setBits r _ | clrBits r _ => simpa [Instr.writes, Instr.writtenReg, eq_comm] using hw
  | setMode _ | rdReg _ | useInt _ | noUseInt _ | attachInt | detachInt => simp [Instr.writes]

/-- The register-surface commands that name `STAT` and answer a next state are its writes (R58). -/
theorem exec_writes_stat {i : Instr} {s t : State} (hw : i.writtenReg = some .stat) (h : exec i s = .next t) :
    ∃ v, i = .wrReg .stat v := by
  cases i with
  | wrReg r v =>
    cases hw
    exact ⟨v, rfl⟩
  | setBits r _ | clrBits r _ =>
    cases hw
    cases h
  | _ => cases hw

/-- Settles O19: no access of the other commands clears the flag, and a write of `STAT` with bit 6 clear keeps it. -/
theorem overflowFlagNeverClearedByHardware : Obligations.OverflowFlagNeverClearedByHardware := by
  intro i s t h ho ht hv
  by_cases hw : i.writtenReg = some .stat
  · obtain ⟨v, rfl⟩ := exec_writes_stat hw h
    obtain ⟨-, u, hu, rfl⟩ := single_eq_next h
    obtain ⟨-, he⟩ := regWrite_eq_next hu
    cases he
    simpa [State.writeStat, ho] using hv v rfl
  · exact exec_keeps (P := fun a => a.ovf = true) h (fun a b hab => hab.ovf (stat_not_mem_writes ht hw)) ho

end Sys2Proof.Machine
end

section
/-! The machine's invariant (spec/10_state.md R22, R30, R31, R37; spec/41_transfer.md R83, R85, R89; R93, R140): what every
micro-operation keeps of the critical section, the phase and the command in progress, and, with the laws of the bus side,
that every step keeps the whole. -/

namespace Sys2Proof

open Machine Config

/-- Only a transfer in progress rests on more than its points. -/
theorem Instr.inProgress_of_hasPoint {i : Instr} {v : Variant} {s : State} (hi : i.isTransfer = false)
    (hv : s.params.variant = v) (h : i.hasPoint v s.point = true) : i.inProgress s = true := by
  cases i with
  | xfer8 _ | xfer16 _ | xferBuf _ _ => cases hi
  | _ => simpa [Instr.inProgress, hv] using h

/-- From the point `p` a transfer goes on at its point `q` with what it was admitted under and the bounds of its loop as
they are. -/
def Instr.goesOn (i : Instr) (p q : Point) : Bool :=
  i.hasPoint .usi q &&
  match i with
  | .xferBuf _ _ => !q.inLoop || p.inLoop
  | .beginCmd | .endCmd | .setMode _ | .xfer8 _ | .xfer16 _ | .rdReg _ | .wrReg _ _ | .setBits _ _ | .clrBits _ _
  | .useInt _ | .noUseInt _ | .attachInt | .detachInt => true

/-- A transfer has no point in progress in the HWSPI variant (R85). -/
theorem Instr.variant_of_inProgress {i : Instr} {s : State} (hi : i.isTransfer = true) (h : i.inProgress s = true) :
    s.params.variant = .usi := by
  cases i with
  | xfer8 _ | xfer16 _ | xferBuf _ _ =>
    simp only [Instr.inProgress, Instr.hasPoint, Bool.and_eq_true, beq_iff_eq] at h
    tauto
  | _ => cases hi

end Sys2Proof

namespace Sys2Proof.Machine

open Sys2Proof.Config

/-- What the invariant says of the sequencer where `i` is the command at `CP`: the section, the phase, and the command in
progress. -/
structure Sequenced (i : Instr) (s : State) : Prop where
  section_ : s.saved.isSome = s.point.inSection s.params.variant
  masked : s.saved.isSome = true → s.gie = false
  phase : s.phase = s.point.phase
  progress : s.point ≠ .idle → i.inProgress s = true

/-- `t` has the section and the phase of `s`. -/
structure SameControl (s t : State) : Prop where
  params : t.params = s.params
  saved : t.saved = s.saved
  gie : t.gie = s.gie
  phase : t.phase = s.phase

/-! ### Going on, entering a section, leaving it, completing -/

section
variable {i : Instr} {v : Variant} {s t u : State} {p q : Point}

/-- The command goes on at a point under the same section and phase. -/
theorem Sequenced.goto (hs : Sequenced i s) (hv : s.params.variant = v) (hq : s.point = q) (hu : SameControl s u)
    (hsec : p.inSection v = q.inSection v) (hph : p.phase = q.phase) (hi : i.inProgress (u.goto p) = true) :
    Sequenced i (u.goto p) where
  section_ := by simpa [hu.saved, hu.params, hv, hsec, hq] using hs.section_
  masked := by simpa [hu.saved, hu.gie] using hs.masked
  phase := by simpa [hu.phase, hph, hq] using hs.phase
  progress _ := hi

/-- The command goes on inside a section that has been entered, which masks interrupts (R137). -/
theorem sequenced_enter (hv : u.params.variant = v) (hu : u.saved.isSome = true) (hg : u.gie = false)
    (hph : u.phase = p.phase) (hsec : p.inSection v = true) (hi : i.inProgress (u.goto p) = true) :
    Sequenced i (u.goto p) where
  section_ := by simp [hu, hv, hsec]
  masked _ := hg
  phase := hph
  progress _ := hi

/-- A command completes outside its section. -/
theorem sequenced_complete (hsaved : u.saved = none) (hph : u.phase = .idle) : Sequenced i u.complete where
  section_ := by simp [hsaved, Point.inSection]
  masked := by simp [hsaved]
  phase := by simp [hph, Point.phase]
  progress h := absurd rfl h

theorem Sequenced.saved_none (hs : Sequenced i s) (hv : s.params.variant = v) (hq : s.point = q)
    (h : q.inSection v = false) : s.saved = none := by
  simpa [hv, hq, h] using hs.section_

theorem Sequenced.phase_at (hs : Sequenced i s) (hq : s.point = q) : s.phase = q.phase := hq ▸ hs.phase

/-- The last micro-operation of a command that is one section (R138). -/
theorem critExit_complete_sequenced (hs : Sequenced i s) (hq : s.point = q)
    (h : andThen (critExit s) (fun u => .next u.complete) = .next t) (hph : q.phase = .idle) : Sequenced i t := by
  obtain ⟨u, hu, hk⟩ := andThen_eq_next h
  obtain ⟨g, -, rfl⟩ := critExit_eq_next hu
  cases hk
  exact sequenced_complete rfl ((hs.phase_at hq).trans hph)

theorem regWrite_sameControl {r : Reg} {b : Byte} (h : regWrite r b s = .next t) (hr : r ≠ .sreg) : SameControl s t :=
  have f := regWrite_frame h
  ⟨f.params, f.saved, (regWrite_writesOnly h).gie hr, f.phase⟩

/-- A register write, after which a command that is not a transfer goes on. -/
theorem regWrite_goto_sequenced {r : Reg} {b : Byte} (hs : Sequenced i s) (hv : s.params.variant = v) (hq : s.point = q)
    (h : andThen (regWrite r b s) (fun u => .next (u.goto p)) = .next t) (hr : r ≠ .sreg)
    (hsec : p.inSection v = q.inSection v) (hph : p.phase = q.phase) (hi : i.isTransfer = false)
    (hp : i.hasPoint v p = true) : Sequenced i t := by
  obtain ⟨u, hu, hk⟩ := andThen_eq_next h
  cases hk
  have hc := regWrite_sameControl hu hr
  exact hs.goto hv hq hc hsec hph (Instr.inProgress_of_hasPoint hi ((congrArg _ hc.params).trans hv) hp)

/-- A command that is one micro-operation. -/
theorem single_sequenced {f : State → Result} (hs : Sequenced i s)
    (hf : ∀ u, f s = .next u → u.saved = s.saved ∧ u.phase = s.phase) (h : single f s = .next t) : Sequenced i t := by
  obtain ⟨hp, u, hu, rfl⟩ := single_eq_next h
  obtain ⟨hsaved, hph⟩ := hf u hu
  exact sequenced_complete (hsaved.trans (hs.saved_none rfl hp rfl)) (hph.trans (hs.phase_at hp))

theorem single_regWrite_sequenced {r : Reg} {b : State → Byte} (hs : Sequenced i s)
    (h : single (fun u => regWrite r (b u) u) s = .next t) : Sequenced i t :=
  single_sequenced hs (fun _ hu => ⟨(regWrite_frame hu).saved, (regWrite_frame hu).phase⟩) h

end

/-! ### The lifecycle and the interrupt lines -/

theorem microBeginUsi_sequenced {s t : State} (hv : s.params.variant = .usi) (hs : Sequenced .beginCmd s)
    (h : microBeginUsi s = .next t) : Sequenced .beginCmd t := by
  unfold microBeginUsi at h
  split at h
  · next hq => exact regWrite_goto_sequenced hs hv hq h (by simp) rfl rfl rfl rfl
  · next hq => exact regWrite_goto_sequenced hs hv hq h (by simp) rfl rfl rfl rfl
  · next hq => exact regWrite_goto_sequenced hs hv hq h (by simp) rfl rfl rfl rfl
  · next hq => exact regWrite_goto_sequenced hs hv hq h (by simp) rfl rfl rfl rfl
  · next hq =>
    obtain ⟨u, hu, hk⟩ := andThen_eq_next h
    cases hk
    have f := regWrite_frame hu
    exact sequenced_complete (f.saved.trans (hs.saved_none hv hq rfl)) (f.phase.trans (hs.phase_at hq))
  · cases h
  · cases h

theorem microBeginHw_sequenced {s t : State} (hv : s.params.variant = .hwspi) (hs : Sequenced .beginCmd s)
    (h : microBeginHw s = .next t) : Sequenced .beginCmd t := by
  unfold microBeginHw at h
  split at h
  · next hq =>
    split at h
    · cases h
    · cases h
      have hph := hs.phase_at hq
      split <;> exact sequenced_enter hv rfl rfl hph rfl (Instr.inProgress_of_hasPoint rfl hv rfl)
  · next hq => exact regWrite_goto_sequenced hs hv hq h (by simp) rfl rfl rfl rfl
  · next hq => exact regWrite_goto_sequenced hs hv hq h (by simp) rfl rfl rfl rfl
  · next hq => exact regWrite_goto_sequenced hs hv hq h (by simp) rfl rfl rfl rfl
  · next hq => exact regWrite_goto_sequenced hs hv hq h (by simp) rfl rfl rfl rfl
  · next hq => exact regWrite_goto_sequenced hs hv hq h (by simp) rfl rfl rfl rfl
  · next hq => exact regWrite_goto_sequenced hs hv hq h (by simp) rfl rfl rfl rfl
  · next hq =>
    cases h
    exact hs.goto hv hq ⟨rfl, rfl, rfl, rfl⟩ rfl rfl (Instr.inProgress_of_hasPoint rfl hv rfl)
  · next hq => exact critExit_complete_sequenced hs hq h rfl
  · cases h
  · cases h

theorem microBegin_sequenced {s t : State} (hs : Sequenced .beginCmd s) (h : microBegin s = .next t) :
    Sequenced .beginCmd t := by
  unfold microBegin at h
  split at h
  · next hv => exact microBeginUsi_sequenced hv hs h
  · next hv => exact microBeginHw_sequenced hv hs h

theorem microEndHw_sequenced {s t : State} (hv : s.params.variant = .hwspi) (hs : Sequenced .endCmd s)
    (h : microEndHw s = .next t) : Sequenced .endCmd t := by
  unfold microEndHw at h
  split at h
  · next hq =>
    cases h
    have hph := hs.phase_at hq
    split <;> exact sequenced_enter hv rfl rfl hph rfl (Instr.inProgress_of_hasPoint rfl hv rfl)
  · next hq =>
    cases h
    split <;> exact hs.goto hv hq ⟨rfl, rfl, rfl, rfl⟩ rfl rfl (Instr.inProgress_of_hasPoint rfl hv rfl)
  · next hq =>
    obtain ⟨u, hu, hk⟩ := andThen_eq_next h
    cases hk
    have hc := regWrite_sameControl hu (by simp)
    exact hs.goto hv hq ⟨by simp [hc.params], by simp [hc.saved], by simp [hc.gie], by simp [hc.phase]⟩ rfl rfl
      (Instr.inProgress_of_hasPoint rfl (by simpa [hc.params] using hv) rfl)
  · next hq => exact critExit_complete_sequenced hs hq h rfl
  · cases h
  · cases h

theorem microEnd_sequenced {s t : State} (hs : Sequenced .endCmd s) (h : microEnd s = .next t) :
    Sequenced .endCmd t := by
  unfold microEnd at h
  split at h
  · exact single_regWrite_sequenced hs h
  · next hv => exact microEndHw_sequenced hv hs h

theorem execSetMode_sequenced {m : DataMode} {s t : State} (hs : Sequenced (.setMode m) s)
    (h : execSetMode m s = .next t) : Sequenced (.setMode m) t := by
  unfold execSetMode at h
  split at h
  · refine single_sequenced hs (fun u hu => ?_) h
    split at hu <;> exact ⟨(regWrite_frame hu).saved, (regWrite_frame hu).phase⟩
  · cases h

/-- `USEINT` and `NOUSEINT`: `f` is the line inside the section. -/
theorem microGuarded_sequenced {i : Instr} {f : State → State} {s t : State} (hi : i.isTransfer = false)
    (h2 : i.hasPoint .hwspi (.line 2) = true) (h3 : i.hasPoint .hwspi (.line 3) = true) (hf : SameControl s (f s))
    (hv : s.params.variant = .hwspi) (hs : Sequenced i s) (h : microGuarded f s = .next t) : Sequenced i t := by
  unfold microGuarded at h
  split at h
  · next hq =>
    cases h
    have hph := hs.phase_at hq
    exact sequenced_enter hv rfl rfl hph rfl (Instr.inProgress_of_hasPoint hi hv h2)
  · next hq =>
    cases h
    exact hs.goto hv hq hf rfl rfl (Instr.inProgress_of_hasPoint hi (by simpa [hf.params] using hv) h3)
  · next hq => exact critExit_complete_sequenced hs hq h rfl
  · cases h
  · cases h

theorem microUseInt_sequenced {n : Byte} {s t : State} (hs : Sequenced (.useInt n) s)
    (h : microUseInt n s = .next t) : Sequenced (.useInt n) t := by
  unfold microUseInt at h
  split at h
  · cases h
  · next hv => exact microGuarded_sequenced rfl rfl rfl (by constructor <;> simp) hv hs h

theorem microNoUseInt_sequenced {n : Byte} {s t : State} (hs : Sequenced (.noUseInt n) s)
    (h : microNoUseInt n s = .next t) : Sequenced (.noUseInt n) t := by
  unfold microNoUseInt at h
  split at h
  · cases h
  · next hv => exact microGuarded_sequenced rfl rfl rfl (by constructor <;> simp) hv hs h

/-! ### The transfers -/

/-- `t` is configured as `s` is, and the counter of `XFERBUF`'s loop is the same. -/
structure SameSetup (s t : State) : Prop where
  params : t.params = s.params
  ctrl : t.ctrl = s.ctrl
  ddr : t.ddr = s.ddr
  counter : t.locals.i = s.locals.i

section
variable {i : Instr} {s t u : State} {p q : Point}

theorem SameSetup.configured (h : SameSetup s t) : t.configured = s.configured := by
  simp only [State.configured, State.wm1, State.wm0, State.cs1, State.clk, State.ctrlByte, h.params, h.ctrl, h.ddr]

theorem inProgress_xferBuf_iff {addr : Addr} {count : Word} : Instr.inProgress (.xferBuf addr count) s = true ↔
    Instr.hasPoint s.params.variant (.xferBuf addr count) s.point = true ∧ s.configured = true ∧ count ≠ 0 ∧
      addr.toNat + count.toNat ≤ 2 ^ 16 ∧ (s.point.inLoop = true → s.locals.i.toNat + 1 < count.toNat) := by
  cases hl : s.point.inLoop <;> simp [Instr.inProgress, and_assoc, hl]

/-- A transfer in progress goes on with what it was admitted under and the bounds of its loop. -/
theorem inProgress_of_goesOn (ht : i.isTransfer = true) (hi : i.inProgress s = true) (hq : s.point = q)
    (hu : SameSetup s u) (hg : i.goesOn q p = true) : i.inProgress (u.goto p) = true := by
  have hv : u.params.variant = .usi := (congrArg _ hu.params).trans (Instr.variant_of_inProgress ht hi)
  have hc : u.configured = s.configured := hu.configured
  cases i with
  | xfer8 _ | xfer16 _ =>
    simp only [Instr.inProgress, Instr.goesOn, Bool.and_eq_true] at hi hg ⊢
    exact ⟨by simpa [hv] using hg.1, hc.trans hi.2⟩
  | xferBuf addr count =>
    obtain ⟨-, hcfg, h0, hb, hloop⟩ := inProgress_xferBuf_iff.mp hi
    simp only [Instr.goesOn, Bool.and_eq_true] at hg
    obtain ⟨hp, hl⟩ := hg
    refine inProgress_xferBuf_iff.mpr ⟨by simpa [hv] using hp, hc.trans hcfg, h0, hb, fun hin => ?_⟩
    have hql : q.inLoop = true := by simpa [show p.inLoop = true from hin] using hl
    simpa [hu.counter] using hloop (hq ▸ hql)
  | _ => cases ht

/-- A transfer goes on at a point under the same section and phase. -/
theorem Sequenced.goesOn (hs : Sequenced i s) (hq : s.point = q) (hc : SameControl s u) (hu : SameSetup s u)
    (ht : i.isTransfer = true) (hne : q ≠ .idle) (hsec : p.inSection .usi = q.inSection .usi)
    (hph : p.phase = q.phase) (hg : i.goesOn q p = true) : Sequenced i (u.goto p) := by
  have hi := hs.progress (hq ▸ hne)
  exact hs.goto (Instr.variant_of_inProgress ht hi) hq hc hsec hph (inProgress_of_goesOn ht hi hq hu hg)

/-- A transfer's last micro-operation lies outside its sections. -/
theorem Sequenced.transfer_complete (hs : Sequenced i s) (hq : s.point = q) (hc : SameControl s u)
    (ht : i.isTransfer = true) (hne : q ≠ .idle) (hsec : q.inSection .usi = false) (hph : q.phase = .idle) :
    Sequenced i u.complete := by
  have hv := Instr.variant_of_inProgress ht (hs.progress (hq ▸ hne))
  exact sequenced_complete (hc.saved.trans (hs.saved_none hv hq hsec)) (hc.phase.trans ((hs.phase_at hq).trans hph))

theorem regWrite_sameSetup {r : Reg} {b : Byte} (h : regWrite r b s = .next t) (hc : r ≠ .ctrl) (hd : r ≠ .ddr) :
    SameSetup s t :=
  have f := regWrite_frame h
  ⟨f.params, (regWrite_writesOnly h).ctrl hc, (regWrite_writesOnly h).ddr hd, congrArg _ f.locals⟩

/-- Setting the strobe bit of `CTRL` writes its stored bits back (R105). -/
theorem ctrlByte_strobe_stored (s : State) : (s.ctrlByte ||| 0x01).extractLsb' 1 7 = s.ctrl := by
  have h : ∀ c : BitVec 7, ((c ++ 0#1 : BitVec 8) ||| 0x01).extractLsb' 1 7 = c := by decide
  exact h _

theorem setBits_strobe_ctrl (h : setBits .ctrl 0x01 s = .next t) : t.ctrl = s.ctrl := by
  obtain ⟨-, he⟩ := regWrite_eq_next h
  rcases writeCtrl_eq_next he with ⟨-, rfl⟩ | ⟨-, -, rfl⟩ <;>
    simpa [State.regValue] using ctrlByte_strobe_stored s

theorem setBits_strobe_sameSetup (h : setBits .ctrl 0x01 s = .next t) : SameSetup s t :=
  have f := setBits_frame h
  ⟨f.params, setBits_strobe_ctrl h, (regWrite_writesOnly h).ddr (by simp), congrArg _ f.locals⟩

/-- A write of `DATA`, after which a transfer goes on. -/
theorem regWrite_data_goesOn {b : Byte} (hs : Sequenced i s) (hq : s.point = q)
    (h : andThen (regWrite .data b s) (fun u => .next (u.goto p)) = .next t) (ht : i.isTransfer = true)
    (hne : q ≠ .idle) (hsec : p.inSection .usi = q.inSection .usi) (hph : p.phase = q.phase)
    (hg : i.goesOn q p = true) : Sequenced i t := by
  obtain ⟨u, hu, hk⟩ := andThen_eq_next h
  cases hk
  exact hs.goesOn hq (regWrite_sameControl hu (by simp)) (regWrite_sameSetup hu (by simp) (by simp)) ht hne hsec hph hg

/-- A read whose value goes into a local other than the loop's counter, after which a transfer goes on. -/
theorem regRead_goesOn {r : Reg} {l : Byte → State → Locals} (hs : Sequenced i s) (hq : s.point = q)
    (h : regRead r (fun v u => .next ((u.setLocals (l v u)).goto p)) s = .next t)
    (hl : ∀ v u, (l v u).i = u.locals.i) (ht : i.isTransfer = true) (hne : q ≠ .idle)
    (hsec : p.inSection .usi = q.inSection .usi) (hph : p.phase = q.phase) (hg : i.goesOn q p = true) :
    Sequenced i t := by
  obtain ⟨-, hk⟩ := regRead_eq_next h
  cases hk
  exact hs.goesOn hq (by constructor <;> simp) (by constructor <;> simp [hl]) ht hne hsec hph hg

/-- One line of `ClockByte()` (R83); `call` and `ret` are the lines that it was called at and returns to. -/
theorem clockByte_sequenced {call ret : Nat} {l : ByteLine} (hs : Sequenced i s) (hq : s.point = .clock call l)
    (h : clockByte call ret l s = .next t) (ht : i.isTransfer = true)
    (hcall : ∀ l', i.goesOn (.clock call l) (.clock call l') = true)
    (hret : i.goesOn (.clock call l) (.line ret) = true) : Sequenced i t := by
  have hi := hs.progress (by simp [hq])
  have hv := Instr.variant_of_inProgress ht hi
  rcases clockByte_eq_next h with ⟨rfl, u, hu, rfl⟩ | ⟨rfl, rfl⟩ | ⟨rfl, -, rfl⟩ | ⟨rfl, -, rfl⟩ | ⟨rfl, u, hu, rfl⟩ |
    ⟨rfl, u, hu, rfl⟩
  · exact hs.goesOn hq (regWrite_sameControl hu (by simp)) (regWrite_sameSetup hu (by simp) (by simp)) ht (by simp) rfl
      rfl (hcall _)
  · exact sequenced_enter hv rfl rfl rfl rfl (inProgress_of_goesOn ht hi hq (by constructor <;> simp) (hcall _))
  · refine sequenced_enter (v := .usi) (by simpa using hv) ?_ ?_ rfl rfl
      (inProgress_of_goesOn ht hi hq (by constructor <;> simp) (hcall _))
    · simp [hs.section_, hq, Point.inSection]
    · simpa using hs.masked (by simp [hs.section_, hq, Point.inSection])
  · exact hs.goesOn hq (by constructor <;> simp) (by constructor <;> simp) ht (by simp) rfl rfl (hcall _)
  · exact hs.goesOn hq (regWrite_sameControl hu (by simp)) (setBits_strobe_sameSetup hu) ht (by simp) rfl rfl (hcall _)
  · obtain ⟨g, -, rfl⟩ := critExit_eq_next hu
    exact {
      section_ := by simp [hv, Point.inSection]
      masked := by simp
      phase := rfl
      progress := fun _ => inProgress_of_goesOn ht hi hq ⟨rfl, rfl, rfl, rfl⟩ hret }

end

theorem microXfer8_sequenced {v : Byte} {s t : State} (hs : Sequenced (.xfer8 v) s) (h : microXfer8 v s = .next t) :
    Sequenced (.xfer8 v) t := by
  unfold microXfer8 at h
  split at h
  · next hq =>
    obtain ⟨hv, hcfg, hb⟩ := admitTransfer_eq_next h
    obtain ⟨u, hu, hk⟩ := andThen_eq_next hb
    cases hk
    have hset := regWrite_sameSetup hu (by simp) (by simp)
    refine hs.goto hv hq (regWrite_sameControl hu (by simp)) rfl rfl ?_
    have hc : (u.goto (.clock 2 .clear)).configured = true := hset.configured.trans hcfg
    simp [Instr.inProgress, Instr.hasPoint, Point.inCall, hset.params, hv, hc]
  · next hq => exact clockByte_sequenced hs hq h rfl (fun _ => rfl) rfl
  · next hq => exact regRead_goesOn hs hq h (fun _ _ => rfl) rfl (by simp) rfl rfl rfl
  · next hq =>
    cases h
    exact hs.transfer_complete hq ⟨rfl, rfl, rfl, rfl⟩ rfl (by simp) rfl rfl
  · cases h
  · cases h

theorem microXfer16_sequenced {w : Word} {s t : State} (hs : Sequenced (.xfer16 w) s)
    (h : microXfer16 w s = .next t) : Sequenced (.xfer16 w) t := by
  unfold microXfer16 at h
  split at h
  · next hq =>
    obtain ⟨hv, hcfg, hb⟩ := admitTransfer_eq_next h
    obtain ⟨u, hu, hk⟩ := andThen_eq_next hb
    cases hk
    have hset := regWrite_sameSetup hu (by simp) (by simp)
    refine hs.goto hv hq (regWrite_sameControl hu (by simp)) rfl rfl ?_
    have hc : (u.goto (.clock 2 .clear)).configured = true := hset.configured.trans hcfg
    simp [Instr.inProgress, Instr.hasPoint, Point.inCall, hset.params, hv, hc]
  · next hq => exact clockByte_sequenced hs hq h rfl (fun _ => rfl) rfl
  · next hq => exact regRead_goesOn hs hq h (fun _ _ => rfl) rfl (by simp) rfl rfl rfl
  · next hq => exact regWrite_data_goesOn hs hq h rfl (by simp) rfl rfl rfl
  · next hq => exact clockByte_sequenced hs hq h rfl (fun _ => rfl) rfl
  · next hq => exact regRead_goesOn hs hq h (fun _ _ => rfl) rfl (by simp) rfl rfl rfl
  · next hq =>
    cases h
    exact hs.transfer_complete hq ⟨rfl, rfl, rfl, rfl⟩ rfl (by simp) rfl rfl
  · cases h
  · cases h

theorem bufferHead_inSection (count : Word) (i : BitVec 16) : (bufferHead count i).inSection .usi = false := by
  unfold bufferHead
  split <;> rfl

theorem bufferHead_phase (count : Word) (i : BitVec 16) : (bufferHead count i).phase = .idle := by
  unfold bufferHead
  split <;> rfl

/-- The loop head enters the loop's body only within its bounds (line 5 of R89). -/
theorem bufferHead_inProgress {addr : Addr} {count : Word} {u : State} (hv : u.params.variant = .usi)
    (hcfg : u.configured = true) (h0 : count ≠ 0) (hb : addr.toNat + count.toNat ≤ 2 ^ 16) :
    Instr.inProgress (.xferBuf addr count) (u.goto (bufferHead count u.locals.i)) = true := by
  refine inProgress_xferBuf_iff.mpr ⟨?_, hcfg, h0, hb, ?_⟩
  · unfold bufferHead
    split <;> simp [Instr.hasPoint, Point.inCall, hv]
  · unfold bufferHead
    split
    · next hlt => exact fun _ => hlt
    · simp [Point.inLoop]

theorem microBuffer_sequenced {addr : Addr} {count : Word} {s t : State} (h0 : count ≠ 0)
    (hs : Sequenced (.xferBuf addr count) s) (h : microBuffer addr count s = .next t) :
    Sequenced (.xferBuf addr count) t := by
  unfold microBuffer at h
  split at h
  · next hq =>
    obtain ⟨hv, hcfg, ha⟩ := admitTransfer_eq_next h
    obtain ⟨hb, hm⟩ := admitBuffer_eq_next ha
    obtain ⟨b, -, hk⟩ := memRead_eq_next hm
    cases hk
    refine hs.goto hv hq ⟨rfl, rfl, rfl, rfl⟩ rfl rfl (inProgress_xferBuf_iff.mpr ⟨?_, hcfg, h0, hb, ?_⟩)
    · simp [Instr.hasPoint, hv]
    · simp [Point.inLoop]
  · next hq =>
    have hi := hs.progress (by simp [hq])
    have hv := Instr.variant_of_inProgress rfl hi
    obtain ⟨-, hcfg, -, hb, -⟩ := inProgress_xferBuf_iff.mp hi
    obtain ⟨u, hu, hk⟩ := andThen_eq_next h
    cases hk
    have hset := regWrite_sameSetup hu (by simp) (by simp)
    have hc := regWrite_sameControl hu (by simp)
    exact hs.goto (u := u.setLocals { u.locals with i := 0 }) hv hq ⟨hc.params, hc.saved, hc.gie, hc.phase⟩
      (bufferHead_inSection _ _) (bufferHead_phase _ _)
      (bufferHead_inProgress ((congrArg _ hset.params).trans hv) (hset.configured.trans hcfg) h0 hb)
  · next hq =>
    obtain ⟨b, -, hk⟩ := memRead_eq_next h
    cases hk
    exact hs.goesOn hq ⟨rfl, rfl, rfl, rfl⟩ ⟨rfl, rfl, rfl, rfl⟩ rfl (by simp) rfl rfl rfl
  · next hq => exact clockByte_sequenced hs hq h rfl (fun _ => rfl) rfl
  · next hq => exact regRead_goesOn hs hq h (fun _ _ => rfl) rfl (by simp) rfl rfl rfl
  · next hq => exact regWrite_data_goesOn hs hq h rfl (by simp) rfl rfl rfl
  · next hq =>
    have hi := hs.progress (by simp [hq])
    have hv := Instr.variant_of_inProgress rfl hi
    obtain ⟨-, hcfg, -, hb, -⟩ := inProgress_xferBuf_iff.mp hi
    cases h
    exact hs.goto (u := (s.memWrite _ _).setLocals { s.locals with i := s.locals.i + 1 }) hv hq ⟨rfl, rfl, rfl, rfl⟩
      (bufferHead_inSection _ _) (bufferHead_phase _ _) (bufferHead_inProgress hv hcfg h0 hb)
  · next hq => exact clockByte_sequenced hs hq h rfl (fun _ => rfl) rfl
  · next hq => exact regRead_goesOn hs hq h (fun _ _ => rfl) rfl (by simp) rfl rfl rfl
  · next hq =>
    cases h
    exact hs.transfer_complete hq ⟨rfl, rfl, rfl, rfl⟩ rfl (by simp) rfl rfl
  · cases h
  · cases h

theorem microXferBuf_sequenced {addr : Addr} {count : Word} {s t : State} (hs : Sequenced (.xferBuf addr count) s)
    (h : microXferBuf addr count s = .next t) : Sequenced (.xferBuf addr count) t := by
  unfold microXferBuf at h
  split at h
  · unfold emptyTransfer at h
    split at h
    · cases h
    · refine single_sequenced hs (fun u hu => ?_) h
      cases hu
      exact ⟨rfl, rfl⟩
  · next h0 => exact microBuffer_sequenced h0 hs h

/-! ### The step -/

theorem execRdReg_sequenced {i : Instr} {r : Reg} {s t : State} (hs : Sequenced i s) (h : execRdReg r s = .next t) :
    Sequenced i t := by
  refine single_sequenced hs (fun u hu => ?_) h
  obtain ⟨-, hk⟩ := regRead_eq_next hu
  cases hk
  simp

theorem execSetBits_sequenced {i : Instr} {r : Reg} {m : Byte} {s t : State} (hs : Sequenced i s)
    (h : execSetBits r m s = .next t) : Sequenced i t := by
  unfold execSetBits at h
  split at h
  · exact single_regWrite_sequenced hs h
  · cases h

theorem execClrBits_sequenced {i : Instr} {r : Reg} {m : Byte} {s t : State} (hs : Sequenced i s)
    (h : execClrBits r m s = .next t) : Sequenced i t := by
  unfold execClrBits at h
  split at h
  · exact single_regWrite_sequenced hs h
  · cases h

/-- Every micro-operation of the command at `CP` keeps what the invariant says of the sequencer. -/
theorem microOp_sequenced {i : Instr} {s t : State} (hs : Sequenced i s) (h : microOp i s = .next t) :
    Sequenced i t := by
  cases i with
  | beginCmd => exact microBegin_sequenced hs h
  | endCmd => exact microEnd_sequenced hs h
  | setMode m => exact execSetMode_sequenced hs h
  | xfer8 v => exact microXfer8_sequenced hs h
  | xfer16 w => exact microXfer16_sequenced hs h
  | xferBuf addr count => exact microXferBuf_sequenced hs h
  | rdReg r => exact execRdReg_sequenced hs h
  | wrReg r v => exact single_regWrite_sequenced (b := fun _ => v) hs h
  | setBits r m => exact execSetBits_sequenced hs h
  | clrBits r m => exact execClrBits_sequenced hs h
  | useInt n => exact microUseInt_sequenced hs h
  | noUseInt n => exact microNoUseInt_sequenced hs h
  | attachInt => exact absurd h (undescribed_ne_next s t)
  | detachInt => exact absurd h (undescribed_ne_next s t)

/-- With the word at `CP` decoded, the invariant's clause on the command in progress speaks of that command. -/
theorem progressFits_iff {s : State} {w : CmdWord} {i : Instr} (hf : s.fetch = some w) (hd : decode w = .ok i) :
    s.progressFits = true ↔ (s.point ≠ .idle → i.inProgress s = true) := by
  simp [State.progressFits, hf, hd, or_iff_not_imp_left]

theorem State.Inv.sequenced {s : State} {w : CmdWord} {i : Instr} (h : s.Inv) (hf : s.fetch = some w)
    (hd : decode w = .ok i) : Sequenced i s :=
  ⟨h.section_, h.masked, h.phase, (progressFits_iff hf hd).mp h.progress⟩

/-- The interrupt agent's events touch nothing that the invariant speaks of (R134). -/
theorem State.Inv.passYield {s : State} (h : s.Inv) : s.passYield.Inv := by
  obtain ⟨n, k, he⟩ := passYield_eq s
  rw [he]
  exact ⟨h.memory, h.latch, h.pointer, h.section_, h.masked, h.phase, h.locals, h.progress⟩

/-- A completed command leaves no locals (R31). -/
theorem Advances.locals {s t : State} (h : Advances s t) (hp : t.point = .idle) : t.locals = Locals.cleared := by
  cases h with
  | completes u _ => rfl
  | goesOn u p _ hne => exact absurd hp hne

/-- Completing the command at `CP` does not pass the end of the list (R30). -/
theorem Advances.cp_le {s t : State} {w : CmdWord} (h : Advances s t) (hf : s.fetch = some w) :
    t.cp ≤ t.cmds.length := by
  obtain ⟨hl, -⟩ := List.getElem?_eq_some_iff.mp hf
  rw [h.cmds]
  rcases h.pointer with ⟨hcp, -⟩ | ⟨hcp, -⟩ <;> omega

/-- A micro-operation of the command at `CP` keeps the invariant. -/
theorem microOp_inv {s t : State} {w : CmdWord} {i : Instr} (hs : s.Inv) (hf : s.fetch = some w)
    (hd : decode w = .ok i) (h : microOp i s = .next t) : t.Inv := by
  have hacc := microOp_access h
  have hadv := microOp_advances h
  have hseq := microOp_sequenced (hs.sequenced hf hd) h
  refine ⟨hacc.memWf hs.memory, hacc.latchHolds hs.latch, hadv.cp_le hf, hseq.section_, hseq.masked, hseq.phase,
    hadv.locals, ?_⟩
  by_cases hp : t.point = .idle
  · simp [State.progressFits, hp]
  · exact (progressFits_iff ((hadv.fetch_of_point hp).trans hf) hd).mpr hseq.progress

/-- Settles O14: the access of a micro-operation keeps memory and the latch, its end the pointer and the locals, and its
place the section, the phase and the command in progress. -/
theorem invariantKeptByEveryStep : Obligations.InvariantKeptByEveryStep := by
  intro s t hs h
  obtain ⟨w, i, hf, hd, hm⟩ := step_eq_next h
  exact microOp_inv hs.passYield (by simpa using hf) hd hm

/-- Settles O12: the reset state is written out. -/
theorem resetValues : Obligations.ResetValues := by
  intro p cmds
  refine ⟨State.resetWith p cmds [], rfl, ?_⟩
  simp [State.resetWith, memGet]

theorem resetWith_inv (p : Params) (cmds : List CmdWord) {mem : List Host.Cell} (hm : memWf mem = true) :
    (State.resetWith p cmds mem).Inv where
  memory := hm
  latch _ _ := by simp [State.resetWith]
  pointer := Nat.zero_le _
  section_ := rfl
  masked h := absurd h (by simp [State.resetWith])
  phase := rfl
  locals _ := rfl
  progress := rfl

/-- Settles O13: every field of the reset state is at rest; only the launch memory is free. -/
theorem resetMeetsInvariant : Obligations.ResetMeetsInvariant :=
  ⟨fun p cmds _ hm => ⟨resetWith_inv p cmds hm, rfl⟩, resetWith_inv _ _ rfl, rfl⟩

end Sys2Proof.Machine
end

section
/-! The lines (spec/10_state.md R24, R25, R29; spec/41_transfer.md R80; spec/42_register_access.md R101, R107, R108;
spec/43_hwspi_variant.md R114, R118): who changes the select pin's latch, and the lines after a register access, the first
`BEGIN` of the HWSPI variant, a transfer and a strobe. -/

namespace Sys2Proof.Machine

open Sys2Proof.Config

/-! ### The bit operations -/

theorem setBits_ddr (m : Byte) (s : State) :
    setBits .ddr m s = .next ({ s with ddr := s.ddr ||| m }.emit (.regW .ddr (s.ddr ||| m))) := rfl

theorem setBits_hctrl {s : State} (hv : s.params.variant = .hwspi) (m : Byte) :
    setBits .hctrl m s = .next ({ s with hctrl := s.hctrl ||| m }.emit (.regW .hctrl (s.hctrl ||| m))) := by
  simp only [setBits, regWrite, regExists, hv]
  rfl

/-- A write of `PORT` that leaves the clock pin's bit alone is never refused (R106). -/
theorem regWrite_port {s : State} {v : Byte} (hk : bitOf v s.params.pinSck = bitOf s.port s.params.pinSck) :
    regWrite .port v s = .next { s.emit (.regW .port v) with port := v }.relatch := by
  simp [regWrite, regExists, writeEffect, writePort, State.sck, hk]

theorem setBits_port {s : State} (n : Fin 8) (hn : (n == s.params.pinSck) = false) :
    setBits .port (bitMask n) s = .next
      { s.emit (.regW .port (s.port ||| bitMask n)) with port := s.port ||| bitMask n }.relatch :=
  regWrite_port (by simp [State.regValue, bitOf_bitMask, hn])

theorem clrBits_port {s : State} (n : Fin 8) (hn : (n == s.params.pinSck) = false) :
    clrBits .port (bitMask n) s = .next
      { s.emit (.regW .port (s.port &&& ~~~bitMask n)) with port := s.port &&& ~~~bitMask n }.relatch :=
  regWrite_port (by simp [State.regValue, bitOf_bitMask, hn])

/-! ### `BEGIN` of the HWSPI variant -/

/-- A micro-operation inside a section, where the `yield` after it lets no interrupt in (R93). -/
theorem runCommand_masked {n : Nat} {m : State → Result} {s t : State} (h : m s = .next t) (hp : t.point ≠ .idle)
    (hg : t.gie = false) : runCommand (n + 2) m s = runCommand (n + 1) m t := by
  rw [runCommand_continue h hp, passYield_masked (.inl hg)]

/-- A write of `PORT` in the HWSPI variant has no latch to follow it (log entry 8). -/
theorem setBits_port_hwspi {s : State} (hv : s.params.variant = .hwspi) (m : Byte) :
    setBits .port m s = .next ({ s with port := s.port ||| m }.emit (.regW .port (s.port ||| m))) := by
  simp [setBits, regWrite, regExists, writeEffect, writePort, State.clockOwned, State.relatch, hv, State.emit,
    State.regValue]

/-- Line 1 of `BEGIN` (R114, R115). -/
theorem microBegin_enter {s : State} (hp : s.point = .idle) (hv : s.params.variant = .hwspi)
    (hsat : s.initialized ≠ 255) :
    microBegin s = .next (s.critEnter.goto (if s.initialized = 0 then .line 21 else .line 3)) := by
  simp only [microBegin, hv, microBeginHw, hp, if_neg hsat]

/-- After line 1 the command is inside its section. -/
theorem execBegin_of_enter {s : State} (hp : s.point = .idle) (hv : s.params.variant = .hwspi)
    (hsat : s.initialized ≠ 255) :
    exec .beginCmd s =
      runCommand 8 microBegin (s.critEnter.goto (if s.initialized = 0 then .line 21 else .line 3)) :=
  runCommand_masked (n := 7) (microBegin_enter hp hv hsat) (by simp; split <;> simp) rfl

/-- The first `BEGIN` (R114, R118), whatever flag the state had saved. -/
theorem execBegin_first {s : State} (hp : s.point = .idle) (hv : s.params.variant = .hwspi) (h0 : s.initialized = 0) :
    let p := s.port ||| bitMask s.params.pinSs
    let d1 := s.ddr ||| bitMask s.params.pinSs
    let d2 := d1 ||| bitMask s.params.pinSck
    let d3 := d2 ||| bitMask s.params.pinDo
    exec .beginCmd s = .next (State.completed { s with
        port := p, ddr := d3, hctrl := s.hctrl ||| 0x10 ||| 0x40, initialized := 1, saved := none }
      [.critEnter s.gie, .regW .port p, .regW .ddr d1, .regW .hctrl (s.hctrl ||| 0x10),
        .regW .hctrl (s.hctrl ||| 0x10 ||| 0x40), .regW .ddr d2, .regW .ddr d3, .critExit s.gie]) := by
  rw [execBegin_of_enter hp hv (by simp [h0]), if_pos h0]
  simp [runCommand_succ, microBegin, microBeginHw, hv, setBits_port_hwspi, setBits_ddr, setBits_hctrl, critExit,
    passYield_masked, State.critEnter, State.goto, State.emit, State.complete, State.completed, h0]

/-- A later `BEGIN` counts one reference more. -/
theorem execBegin_later {s : State} (hp : s.point = .idle) (hv : s.params.variant = .hwspi) (h0 : s.initialized ≠ 0)
    (hsat : s.initialized ≠ 255) :
    exec .beginCmd s = .next (State.completed { s with initialized := s.initialized + 1, saved := none }
      [.critEnter s.gie, .critExit s.gie]) := by
  rw [execBegin_of_enter hp hv hsat, if_neg h0]
  simp [runCommand_succ, microBegin, microBeginHw, hv, critExit, passYield_masked, State.critEnter, State.goto,
    State.emit, State.complete, State.completed]

/-! ### The select pin -/

/-- A command other than a register-surface write of `PORT` and `BEGIN` of the HWSPI variant writes `PORT` nowhere. -/
theorem port_not_mem_writes {i : Instr} {v : Variant} (hw : i.writtenReg ≠ some .port)
    (hb : i = .beginCmd → v = .usi) : Reg.port ∉ i.writes v := by
  cases i with
  | beginCmd => simp [Instr.writes, hb rfl]
  | endCmd => cases v <;> simp [Instr.writes]
  | wrReg r _ | setBits r _ | clrBits r _ => simpa [Instr.writes, Instr.writtenReg, eq_comm] using hw
  | setMode _ | xfer8 _ | xfer16 _ | xferBuf _ _ | rdReg _ | useInt _ | noUseInt _ | attachInt | detachInt =>
    simp [Instr.writes]

/-- A command that writes `PORT` nowhere leaves the latch of every pin but the clock's alone (R24). -/
theorem exec_portBit {i : Instr} {s t : State} {n : Fin 8} (h : exec i s = .next t)
    (hW : Reg.port ∉ i.writes s.params.variant) (hn : (s.params.pinSck == n) = false) :
    bitOf t.port n = bitOf s.port n :=
  (exec_keeps (P := fun a => a.params = s.params ∧ bitOf a.port n = bitOf s.port n) h
    (fun _ _ hab ⟨hp, hb⟩ => ⟨hab.params.trans hp, (hab.portBit hW (hp ▸ hn)).trans hb⟩) ⟨rfl, rfl⟩).2

theorem exec_params {i : Instr} {s t : State} (h : exec i s = .next t) : t.params = s.params :=
  exec_keeps (P := fun a => a.params = s.params) h (fun _ _ hab hp => hab.params.trans hp) rfl

theorem exec_ddr {i : Instr} {s t : State} (h : exec i s = .next t) (hW : Reg.ddr ∉ i.writes s.params.variant) :
    t.ddr = s.ddr :=
  exec_keeps (P := fun a => a.ddr = s.ddr) h (fun _ _ hab hd => (hab.ddr hW).trans hd) rfl

theorem execBegin_saturated {s : State} (hp : s.point = .idle) (hv : s.params.variant = .hwspi)
    (hsat : s.initialized = 255) : exec .beginCmd s = .refused .refcountSaturated := by
  have h1 : microBegin s = .refused .refcountSaturated := by simp only [microBegin, hv, microBeginHw, hp, if_pos hsat]
  rw [exec_eq_runCommand]
  exact (runCommand_succ 8 microBegin s).trans (by rw [h1, andThen_refused])

/-- `BEGIN` of the HWSPI variant sets the select pin's latch on the first reference, and else leaves it alone. -/
theorem execBegin_selectPin {s t : State} (hp : s.point = .idle) (hv : s.params.variant = .hwspi)
    (h : exec .beginCmd s = .next t) :
    (s.initialized = 0 ∧ bitOf t.port s.params.pinSs = true) ∨ t.port = s.port := by
  by_cases h0 : s.initialized = 0
  · rw [execBegin_first hp hv h0] at h
    cases h
    exact .inl ⟨h0, by simp [State.completed, bitOf_bitMask]⟩
  · by_cases hsat : s.initialized = 255
    · rw [execBegin_saturated hp hv hsat] at h
      cases h
    · rw [execBegin_later hp hv h0 hsat] at h
      cases h
      exact .inr rfl

/-- Settles O20: the commands that write `PORT` nowhere keep the latch, and of the others only `BEGIN` is left. -/
theorem selectPinLeftToHost : Obligations.SelectPinLeftToHost := by
  intro i s t hd hp h hw
  by_cases hb : i = .beginCmd ∧ s.params.variant = .hwspi
  · obtain ⟨rfl, hv⟩ := hb
    rcases execBegin_selectPin hp hv h with ⟨h0, hset⟩ | hsame
    · exact .inr ⟨rfl, hv, h0, hset⟩
    · exact .inl (by rw [hsame])
  · refine .inl (exec_portBit h (port_not_mem_writes hw fun hi => ?_) (pinsDistinct_sck_ss hd))
    cases hv : s.params.variant with
    | usi => rfl
    | hwspi => exact absurd ⟨hi, hv⟩ hb

/-- `SSOUT`, `DESELECT` and `SELECT` are one micro-operation (R65, R109). -/
theorem exec_setBits_eq {r : Reg} {m : Byte} {s t : State} (hr : r.bitAccessible = true) (hp : s.point = .idle)
    (h : setBits r m s = .next t) : exec (.setBits r m) s = .next t.complete := by
  simp [exec, execSetBits, hr, single_idle hp, h]

theorem exec_clrBits_eq {r : Reg} {m : Byte} {s t : State} (hr : r.bitAccessible = true) (hp : s.point = .idle)
    (h : clrBits r m s = .next t) : exec (.clrBits r m) s = .next t.complete := by
  simp [exec, execClrBits, hr, single_idle hp, h]

theorem transfer_writes {i : Instr} (hi : i.isTransfer = true) (v : Variant) : i.writes v = [.data, .stat, .ctrl] := by
  cases i with
  | xfer8 _ | xfer16 _ | xferBuf _ _ => rfl
  | _ => cases hi

/-- A transfer leaves the select line alone (R110). -/
theorem transfer_ssLine {i : Instr} {s t : State} (hi : i.isTransfer = true) (hd : s.params.pinsDistinct = true)
    (h : exec i s = .next t) : t.ssLine = s.ssLine := by
  have hb := exec_portBit h (by simp [transfer_writes hi]) (pinsDistinct_sck_ss hd)
  have hddr := exec_ddr h (by simp [transfer_writes hi])
  simp only [State.ssLine, exec_params h, hddr, hb]

/-- Settles O59: the state after each of the three commands and after the first `BEGIN` is known, and a transfer writes
neither `PORT` nor `DDR`. -/
theorem selectLineFollowsPins : Obligations.SelectLineFollowsPins := by
  intro s hp hd
  have hn : (s.params.pinSs == s.params.pinSck) = false := BEq.comm.trans (pinsDistinct_sck_ss hd)
  refine ⟨⟨_, exec_setBits_eq rfl hp (setBits_ddr _ s), ?_⟩, ⟨_, exec_setBits_eq rfl hp (setBits_port _ hn), ?_, ?_⟩,
    ⟨_, exec_clrBits_eq rfl hp (clrBits_port _ hn), ?_, ?_⟩, fun i t hi h => transfer_ssLine hi hd h,
    fun hv _ h0 => ⟨_, execBegin_first hp hv h0, ?_, ?_⟩⟩
  · simp [State.ssLine, bitOf_bitMask]
  · simp [State.selected, State.ssLine, bitOf_bitMask]
  · simp [State.ssLine, bitOf_bitMask]
  · cases hs : bitOf s.ddr s.params.pinSs <;> simp [State.selected, State.ssLine, bitOf_bitMask, hs]
  · simp [State.ssLine, bitOf_bitMask]
  · simp [State.completed, State.ssLine, bitOf_bitMask]
  · simp [State.completed, State.selected, State.ssLine, bitOf_bitMask]

/-! ### A strobe -/

/-- A latch that holds is left as it is. -/
theorem relatch_of_latchHolds {s : State} (h : s.LatchHolds) : s.relatch = s := by
  unfold State.relatch
  cases hv : s.params.variant with
  | hwspi => rfl
  | usi =>
    by_cases hk : s.sck = s.cs0
    · simp only [if_pos hk, ← h hv hk]
    · simp only [if_neg hk]

/-- `STROBE`, the strobe through `CTRL` (R65, R105), is the strobe of R80 after the event of its write. -/
theorem exec_strobe {s : State} (hp : s.point = .idle) (hv : s.params.variant = .usi) (hc : s.clkCfg = true)
    (hl : s.LatchHolds) :
    exec (.setBits .ctrl 0x01) s = .next (s.emit (.regW .ctrl (s.ctrlByte ||| 0x01))).strobe.complete := by
  have hbit : (s.ctrlByte ||| 0x01).getLsbD 0 = true := by simp
  have hsame : { s.emit (.regW .ctrl (s.ctrlByte ||| 0x01)) with ctrl := (s.ctrlByte ||| 0x01).extractLsb' 1 7 } =
      s.emit (.regW .ctrl (s.ctrlByte ||| 0x01)) := by rw [ctrlByte_strobe_stored]; rfl
  refine exec_setBits_eq rfl hp ?_
  calc setBits .ctrl 0x01 s
      = writeCtrl (s.ctrlByte ||| 0x01) (s.emit (.regW .ctrl (s.ctrlByte ||| 0x01))) := by
        simp [setBits, regWrite, regExists, hv, writeEffect, State.regValue]
    _ = strobeOrRefuse (s.emit (.regW .ctrl (s.ctrlByte ||| 0x01))).relatch := by
        rw [writeCtrl, if_pos hbit, hsame]
    _ = strobeOrRefuse (s.emit (.regW .ctrl (s.ctrlByte ||| 0x01))) := by
        rw [relatch_of_latchHolds (s := s.emit _) hl]
    _ = .next (s.emit (.regW .ctrl (s.ctrlByte ||| 0x01))).strobe := if_pos hc

/-- Away from the idle level of the clock the edge is a sampling edge (R80, R81). -/
theorem strobe_of_sck_eq_cs0 {s : State} (h : s.sck = s.cs0) : s.strobe = s.toggleSck.countStrobe.sampleEdge := by
  have hk : s.toggleSck.countStrobe.sck ≠ s.toggleSck.countStrobe.cs0 := by
    have hs : s.toggleSck.countStrobe.sck = !s.sck := by simp [State.sck, bitOf_bitMask]
    have hc : s.toggleSck.countStrobe.cs0 = s.cs0 := by simp [State.cs0, State.ctrlByte]
    simp [hs, hc, h]
  rw [State.strobe, State.edge, if_neg hk]

theorem doLine_congr {s t : State} (hp : t.params = s.params) (hc : t.ctrl = s.ctrl) (hd : t.ddr = s.ddr)
    (hl : t.dol = s.dol) : t.doLine = s.doLine := by
  have h : t.doDriven = s.doDriven := by simp only [State.doDriven, State.wm1, State.wm0, State.ctrlByte, hp, hc, hd]
  simp only [State.doLine, h, hl]

/-- The level taken in at the sampling edge of a strobe is that of the lines before it (R25). -/
theorem diLevel_toggled (s : State) : s.toggleSck.countStrobe.diLevel = s.diLevel := by
  have hd : s.toggleSck.countStrobe.doLine = s.doLine := doLine_congr (by simp) (by simp) (by simp) (by simp)
  simp [State.diLevel, hd]

theorem sckLine_of_clkCfg {s : State} (h : s.clkCfg = true) : s.sckLine = some s.sck := by
  simp only [State.clkCfg, Bool.and_eq_true] at h
  simp [State.sckLine, h.2]

theorem doLine_of_configured {s : State} (h : s.configured = true) : s.doLine = some s.dol := by
  have hd : s.doDriven = true := by
    simp only [State.configured, Bool.and_eq_true] at h
    obtain ⟨⟨⟨⟨⟨⟨h1, h0⟩, -⟩, -⟩, -⟩, hdo⟩, -⟩ := h
    simpa [State.doDriven, hdo, h0] using h1
  simp [State.doLine, hd]

/-- A strobe toggles the clock line, which is driven where the clock is configured (R25, R80). -/
theorem strobe_sckLine {s : State} (h : s.clkCfg = true) : s.strobe.sckLine = some (!s.sck) := by
  simp only [State.clkCfg, Bool.and_eq_true] at h
  simp [State.sckLine, State.sck, strobe_port, bitOf_bitMask, h.2]

theorem strobe_doLine {s : State} (h : s.sck = s.cs0) : s.strobe.doLine = s.doLine := by
  rw [strobe_of_sck_eq_cs0 h]
  exact doLine_congr (by simp) (by simp) (by simp) (by simp)

theorem strobe_dr {s : State} (h : s.sck = s.cs0) :
    s.strobe.dr = s.dr.extractLsb' 0 7 ++ BitVec.ofBool s.diLevel := by
  rw [strobe_of_sck_eq_cs0 h]
  simp [State.sampleEdge, diLevel_toggled]

/-- Settles O60: `STROBE` is one strobe, and at a sampling edge the shift register takes in the data-in level (R25). -/
theorem strobeMovesTheLines : Obligations.StrobeMovesTheLines := by
  intro s hp hv hc hl
  refine ⟨sckLine_of_clkCfg hc, doLine_of_configured, _, exec_strobe hp hv hc hl, strobe_sckLine (s := s.emit _) hc,
    fun hk => ⟨strobe_doLine (s := s.emit _) hk, (strobe_dr (s := s.emit _) hk).trans ?_⟩⟩
  have hdi : (s.emit (.regW .ctrl (s.ctrlByte ||| 0x01))).diLevel = s.diLevel := rfl
  rw [hdi, emit_dr]
  cases hw : s.params.wiring <;> cases hd : s.doLine <;> simp [State.diLevel, hw, hd]

end Sys2Proof.Machine
end

section
/-! The micro-operations of a command in progress one after another (R7, R8): what a run of them comes to, up to the
events of the interrupt agent (R134). -/

namespace Sys2Proof.Machine

/-! ### Histories without the interrupt agent's events -/

@[simp] theorem withoutPreempts_append (g h : List Event) :
    withoutPreempts (g ++ h) = withoutPreempts g ++ withoutPreempts h := List.filter_append ..

@[simp] theorem withoutPreempts_nil : withoutPreempts [] = [] := rfl

@[simp] theorem withoutPreempts_cons {e : Event} (h : e ≠ .preempt) (l : List Event) :
    withoutPreempts (e :: l) = e :: withoutPreempts l := by
  simp [withoutPreempts, h]

@[simp] theorem withoutPreempts_replicate_preempt (n : Nat) : withoutPreempts (List.replicate n .preempt) = [] := by
  simp [withoutPreempts]

@[simp] theorem withoutPreempts_passYield (s : State) :
    withoutPreempts s.passYield.history = withoutPreempts s.history := by
  obtain ⟨n, k, h⟩ := passYield_eq s
  simp [h]

/-! ### Micro-operations in a row -/

/-- `n` micro-operations `m` in a row, each with the `yield` after it, none of which completes the command. -/
inductive Continues (m : State → Result) : Nat → State → State → Prop
  | refl (s : State) : Continues m 0 s s
  | cons {n : Nat} {s t u : State} (h : m s = .next t) (hp : t.point ≠ .idle) (r : Continues m n t.passYield u) :
      Continues m (n + 1) s u

section
variable {m : State → Result} {s t u x : State} {k n : Nat}

theorem Continues.trans (h : Continues m n s t) (g : Continues m k t u) : Continues m (n + k) s u := by
  induction h with
  | refl s => simpa using g
  | cons h hp _ ih => simpa [Nat.add_right_comm] using .cons h hp (ih g)

/-- The whole command goes on from where its first micro-operations have led. -/
theorem Continues.runCommand_eq (h : Continues m n s t) (k : Nat) :
    runCommand (n + (k + 1)) m s = runCommand (k + 1) m t := by
  induction h with
  | refl s => simp
  | @cons n s v u h hp _ ih =>
    rw [show n + 1 + (k + 1) = n + k + 2 by omega, runCommand_continue h hp]
    exact ih

/-- The steps of a run are the micro-operations of the command at `CP`, which stays there while none completes it. -/
theorem Continues.exists_run {w : CmdWord} {i : Instr} (h : Continues (microOp i) n s t) (hd : decode w = .ok i)
    (hy : x.passYield = s) (hf : x.fetch = some w) :
    ∃ (u : State) (new : List Event), Sys2Proof.core.run n x = .next u ∧ u.passYield = t ∧ u.fetch = some w ∧
      u.cp = x.cp ∧ u.history = x.history ++ new := by
  induction h generalizing x with
  | refl s => exact ⟨x, [], rfl, hy, hf, rfl, by simp⟩
  | @cons n s v u h hp _ ih =>
    subst hy
    have hs : step x = .next v := (step_of_decode hf hd).trans h
    have ha := microOp_advances h
    have hv : v.fetch = some w := by rw [ha.fetch_of_point hp, passYield_fetch, hf]
    have hcp : v.cp = x.cp := by
      rcases ha.pointer with ⟨-, hi⟩ | ⟨hcp, -⟩
      · exact absurd hi hp
      · simpa using hcp
    obtain ⟨old, ho⟩ := historyAppendOnly x v hs
    obtain ⟨z, new, hrun, hz, hfz, hcz, hn⟩ := ih rfl hv
    exact ⟨z, old ++ new, (run_succ_of_next (M := Sys2Proof.core) hs n).trans hrun, hz, hfz, hcz.trans hcp,
      by rw [hn, ho, List.append_assoc]⟩

/-- One micro-operation, and the `yield` after it. -/
theorem Continues.single (h : m s = .next x) (hp : x.point ≠ .idle) : Continues m 1 s x.passYield :=
  .cons h hp (.refl _)

/-- One micro-operation inside a critical section, where the interrupt agent does nothing (R134). -/
theorem Continues.single_masked (h : m s = .next x) (hp : x.point ≠ .idle) (hx : x.saved.isSome = true) :
    Continues m 1 s x := by
  have hy : x.passYield = x := passYield_masked (.inr hx)
  exact .cons h hp (hy.symm ▸ .refl x)

end

end Sys2Proof.Machine
end

section
/-! One byte on the wire (spec/41_transfer.md R80, R83, R86): the sixteen strobes of `ClockByte()` in eight pairs, each
of which sends one bit and takes one in. -/

namespace Sys2Proof.Machine

open Sys2Proof.Config

/-! ### The data-in line of a configured engine -/

/-- The level on the data-in line where the engine is configured (R25). -/
def State.lineLevel (s : State) : Bool :=
  match s.params.wiring with
  | .loopback => s.dol
  | .slave => wireLevel s.wireDraws

/-- How many levels are drawn for `j` bits (R25). -/
def State.drawsForBits (s : State) (j : Nat) : Nat :=
  match s.params.wiring with
  | .loopback => 0
  | .slave => j

theorem drawsForBits_succ (s : State) (j : Nat) : s.drawsForBits (j + 1) = s.drawsForBits j + s.drawsForBits 1 := by
  cases hw : s.params.wiring <;> simp [State.drawsForBits, hw]

theorem drawsForBits_congr {s t : State} (h : t.params = s.params) (j : Nat) : t.drawsForBits j = s.drawsForBits j := by
  simp only [State.drawsForBits, h]

theorem doDriven_of_configured {s : State} (h : s.configured = true) : s.doDriven = true := by
  have hd := doLine_of_configured h
  unfold State.doLine at hd
  split at hd
  · assumption
  · cases hd

theorem clkCfg_of_configured {s : State} (h : s.configured = true) : s.clkCfg = true := by
  simp only [State.configured, Bool.and_eq_true] at h
  obtain ⟨⟨⟨⟨⟨⟨-, -⟩, hcs⟩, hclk⟩, hsck⟩, -⟩, -⟩ := h
  simp [State.clkCfg, hcs, hclk, hsck]

/-- A level is drawn exactly where no loopback gives it (R25). -/
theorem sampleEdge_wireDraws {s : State} (h : s.doDriven = true) :
    s.sampleEdge.wireDraws = s.wireDraws + s.drawsForBits 1 := by
  have hd (v : Byte) : State.doDriven { s with dr := v } = true := h
  cases hw : s.params.wiring <;> simp [State.sampleEdge, State.passDraw, State.drawsForBits, hw, hd]

theorem diLevel_of_configured {s : State} (h : s.configured = true) : s.diLevel = s.lineLevel := by
  cases hw : s.params.wiring <;> simp [State.diLevel, State.lineLevel, doLine_of_configured h, hw]

/-! ### One strobe -/

section
variable {s : State}

theorem strobe_sck (s : State) : s.strobe.sck = !s.sck := by simp [State.sck, strobe_port, bitOf_bitMask]

theorem strobe_cnt (h : s.params.hwFaultNoOverflow = false) : s.strobe.cnt = s.cnt + 1 := by
  simp [State.strobe, countStrobe_cnt, h]

theorem strobe_ovf (h : s.params.hwFaultNoOverflow = false) : s.strobe.ovf = (s.ovf || s.cnt == 15#4) := by
  simp [State.strobe, countStrobe_ovf, h]

/-- A strobe that brings the clock line to the level of `CS0` makes a setup edge (R80, R81). -/
theorem strobe_of_sck_ne_cs0 (h : s.sck ≠ s.cs0) : s.strobe = s.toggleSck.countStrobe.setupEdge := by
  have hs : s.toggleSck.countStrobe.sck = !s.sck := by simp [State.sck, bitOf_bitMask]
  have hc : s.toggleSck.countStrobe.cs0 = s.cs0 := by simp [State.cs0, State.ctrlByte]
  rw [State.strobe, State.edge, if_pos (by rw [hs, hc]; exact Bool.not_eq.mpr h)]

/-- What a strobe with a sampling edge does to the bits (R25, R80). -/
theorem strobe_sampling (hk : s.sck = s.cs0) (hc : s.configured = true) :
    s.strobe.dr = s.dr.extractLsb' 0 7 ++ BitVec.ofBool s.lineLevel ∧ s.strobe.dol = s.dol ∧
    s.strobe.wireDraws = s.wireDraws + s.drawsForBits 1 ∧
    s.strobe.history = s.history ++ [.edge (!s.sck) s.dol (some s.lineLevel)] := by
  have hs : s.toggleSck.countStrobe.sck = !s.sck := by simp [State.sck, bitOf_bitMask]
  have hd : s.toggleSck.countStrobe.doDriven = true := by
    simpa [State.doDriven, State.wm1, State.wm0, State.ctrlByte] using doDriven_of_configured hc
  refine ⟨by rw [strobe_dr hk, diLevel_of_configured hc], ?_, ?_, ?_⟩ <;> rw [strobe_of_sck_eq_cs0 hk]
  · simp
  · rw [sampleEdge_wireDraws hd]
    simp [State.drawsForBits]
  · simp [State.sampleEdge, hs, diLevel_toggled, diLevel_of_configured hc]

/-- What a strobe with a setup edge does to the bits (R80). -/
theorem strobe_setup (hk : s.sck ≠ s.cs0) :
    s.strobe.dr = s.dr ∧ s.strobe.dol = s.dr.getLsbD 7 ∧ s.strobe.wireDraws = s.wireDraws ∧
    s.strobe.history = s.history ++ [.edge (!s.sck) (s.dr.getLsbD 7) none] := by
  have hs : s.toggleSck.countStrobe.sck = !s.sck := by simp [State.sck, bitOf_bitMask]
  rw [strobe_of_sck_ne_cs0 hk]
  simp [hs]

/-- Setting the strobe bit of `CTRL` is its event and one strobe (R105). -/
theorem setBits_strobe (hv : s.params.variant = .usi) (hc : s.clkCfg = true) (hl : s.LatchHolds) :
    setBits .ctrl 0x01 s = .next (s.emit (.regW .ctrl (s.ctrlByte ||| 0x01))).strobe := by
  have hbit : (s.ctrlByte ||| 0x01).getLsbD 0 = true := by simp
  have hsame : { s.emit (.regW .ctrl (s.ctrlByte ||| 0x01)) with ctrl := (s.ctrlByte ||| 0x01).extractLsb' 1 7 } =
      s.emit (.regW .ctrl (s.ctrlByte ||| 0x01)) := by rw [ctrlByte_strobe_stored]; rfl
  have hr : (s.emit (.regW .ctrl (s.ctrlByte ||| 0x01))).relatch = s.emit (.regW .ctrl (s.ctrlByte ||| 0x01)) :=
    relatch_of_latchHolds (s := s.emit _) hl
  rw [setBits, regWrite, State.regValue, if_pos (by simp [regExists, hv]), writeEffect, writeCtrl, if_pos hbit, hsame,
    hr]
  exact if_pos hc

end

/-! ### The bits of one byte -/

/-- The shift register after `j` shifts, `level` giving the levels taken in. -/
def shifted (v : Byte) (level : Nat → Bool) : Nat → Byte
  | 0 => v
  | j + 1 => (shifted v level j).extractLsb' 0 7 ++ BitVec.ofBool (level j)

theorem getLsbD_shifted (v : Byte) (level : Nat → Bool) (j i : Nat) (hi : i < 8) :
    (shifted v level j).getLsbD i = if i < j then level (j - 1 - i) else v.getLsbD (i - j) := by
  induction j generalizing i with
  | zero => simp [shifted]
  | succ j ih =>
    rw [shifted, BitVec.getLsbD_append]
    rcases i with _ | i
    · simp
    · simp only [show ¬ i + 1 < 1 by omega, show i + 1 - 1 = i by omega, if_false, BitVec.getLsbD_extractLsb',
        show i < 7 by omega, decide_true, Bool.true_and, Nat.zero_add, ih i (by omega), Nat.add_lt_add_iff_right,
        Nat.add_sub_add_right]
      congr 2
      omega

/-- The bits of the slave's answer are its levels in the order they are drawn, highest first (R42). -/
theorem getLsbD_answerByte (k i : Nat) (hi : i < 8) : (answerByte k).getLsbD i = wireLevel (k + (7 - i)) := by
  simp only [answerByte, BitVec.getLsbD_append, BitVec.getLsbD_ofBool]
  interval_cases i <;> simp

/-- The level taken in with bit `j` of the byte in the shift register, counted from the highest (R42, R86, R92): in
loopback the bit sent. -/
def State.levelIn (s : State) (j : Nat) : Bool :=
  match s.params.wiring with
  | .loopback => s.dr.getLsbD (7 - j)
  | .slave => wireLevel (s.wireDraws + j)

/-- The shift register after `j` bits of the byte in it. -/
def State.drAfter (s : State) (j : Nat) : Byte := shifted s.dr s.levelIn j

/-- The bit at the top of the shift register is the next one of the byte sent (R80). -/
theorem drAfter_top (s : State) {j : Nat} (hj : j < 8) : (s.drAfter j).getLsbD 7 = s.dr.getLsbD (7 - j) := by
  rw [State.drAfter, getLsbD_shifted _ _ _ _ (by omega), if_neg (by omega)]

/-- After eight bits the shift register holds the byte received (R86, R92). -/
theorem drAfter_eight (s : State) : s.drAfter 8 = s.received 0 s.dr := by
  refine BitVec.eq_of_getLsbD_eq fun i hi => ?_
  rw [State.drAfter, getLsbD_shifted _ _ _ _ hi, if_pos hi]
  cases hw : s.params.wiring
  · simp only [State.levelIn, State.received, hw]
    congr 1
    omega
  · simp [State.levelIn, State.received, hw, getLsbD_answerByte _ _ hi]

/-- The data-out latch after `j` bits (R80, R81): where the clock idles at `CS0` the second edge of a bit opens it, else
the first. -/
def State.dolAfter (s : State) : Nat → Bool
  | 0 => s.dol
  | j + 1 => if s.sck = s.cs0 then (s.drAfter (j + 1)).getLsbD 7 else (s.drAfter j).getLsbD 7

theorem dolAfter_eight (s : State) : s.dolAfter 8 = s.latchAfter s.dr (s.received 0 s.dr) := by
  rw [State.dolAfter, State.latchAfter, drAfter_eight, drAfter_top s (by decide)]

/-- Where the clock idles at `CS0` the latch holds the next bit to be sent. -/
theorem dolAfter_of_idle {s : State} (hv : s.params.variant = .usi) (hl : s.LatchHolds) (hk : s.sck = s.cs0) (j : Nat) :
    s.dolAfter j = (s.drAfter j).getLsbD 7 := by
  cases j with
  | zero => exact hl hv hk
  | succ j => simp [State.dolAfter, hk]

/-- The first edge of bit `j` (R80, R81): a sampling edge where the clock idles at `CS0`. -/
def State.firstEdge (s : State) (j : Nat) : Event :=
  if s.sck = s.cs0 then .edge (!s.sck) ((s.drAfter j).getLsbD 7) (some (s.levelIn j))
  else .edge (!s.sck) ((s.drAfter j).getLsbD 7) none

/-- The second edge of bit `j` (R80, R81): a setup edge where the clock idles at `CS0`. -/
def State.secondEdge (s : State) (j : Nat) : Event :=
  if s.sck = s.cs0 then .edge s.sck ((s.drAfter (j + 1)).getLsbD 7) none
  else .edge s.sck ((s.drAfter j).getLsbD 7) (some (s.levelIn j))

/-- The value that poll `n` of a byte reads before the flag is set (R17, R83). -/
def State.pollByte (s : State) (n : Nat) : Byte := statByte (statBits (s.statDraws + n)) false (BitVec.ofNat 4 n)

/-- The events of bit `j` of a byte: a poll and a strobe, twice (R83). -/
def State.bitEvents (s : State) (j : Nat) : List Event :=
  [.regR .stat (s.pollByte (2 * j)), .regW .ctrl (s.ctrlByte ||| 0x01), s.firstEdge j,
    .regR .stat (s.pollByte (2 * j + 1)), .regW .ctrl (s.ctrlByte ||| 0x01), s.secondEdge j]

/-! ### A poll and a strobe, and one bit -/

/-- What the exchange of bytes leaves alone: the parameters of the run and its place in the list, the registers that set
the engine up, the driver's state, the interrupt flag and the section, `RET` (R140). -/
structure SameSettings (s t : State) : Prop where
  params : t.params = s.params
  cmds : t.cmds = s.cmds
  cp : t.cp = s.cp
  ctrl : t.ctrl = s.ctrl
  ddr : t.ddr = s.ddr
  gie : t.gie = s.gie
  hctrl : t.hctrl = s.hctrl
  dataMode : t.dataMode = s.dataMode
  initialized : t.initialized = s.initialized
  interruptMode : t.interruptMode = s.interruptMode
  interruptMask : t.interruptMask = s.interruptMask
  saved : t.saved = s.saved
  ret : t.ret = s.ret

theorem SameSettings.refl (s : State) : SameSettings s s := by constructor <;> rfl

theorem SameSettings.trans {s t u : State} (h : SameSettings s t) (g : SameSettings t u) : SameSettings s u :=
  ⟨g.params.trans h.params, g.cmds.trans h.cmds, g.cp.trans h.cp, g.ctrl.trans h.ctrl, g.ddr.trans h.ddr,
    g.gie.trans h.gie, g.hctrl.trans h.hctrl, g.dataMode.trans h.dataMode, g.initialized.trans h.initialized,
    g.interruptMode.trans h.interruptMode, g.interruptMask.trans h.interruptMask, g.saved.trans h.saved,
    g.ret.trans h.ret⟩

theorem SameSettings.configured {s t : State} (h : SameSettings s t) : t.configured = s.configured := by
  simp only [State.configured, State.wm1, State.wm0, State.cs1, State.clk, State.ctrlByte, h.params, h.ctrl, h.ddr]

theorem SameSettings.cs0 {s t : State} (h : SameSettings s t) : t.cs0 = s.cs0 := by
  simp only [State.cs0, State.ctrlByte, h.ctrl]

/-- A poll that reads the flag clear, and the event of the strobe's write of `CTRL` (lines 3 and 4 of R83, R105). -/
def State.polled (call : Nat) (s : State) : State :=
  ((s.noteRead .stat).goto (.clock call .strobe)).emit (.regW .ctrl (s.ctrlByte ||| 0x01))

/-- A poll that reads the flag clear, and the strobe that follows it (lines 3 and 4 of R83). -/
def State.pollStrobe (call : Nat) (s : State) : State := (s.polled call).strobe.goto (.clock call .poll)

section
variable (call : Nat) {s : State}

theorem pollStrobe_sameSettings (s : State) : SameSettings s (s.pollStrobe call) := by
  constructor <;> simp [State.pollStrobe, State.polled]

theorem pollStrobe_phase (s : State) : (s.pollStrobe call).phase = s.phase := by simp [State.pollStrobe, State.polled]

theorem pollStrobe_locals (s : State) : (s.pollStrobe call).locals = s.locals := by
  simp [State.pollStrobe, State.polled]

theorem pollStrobe_mem (s : State) : (s.pollStrobe call).mem = s.mem := by simp [State.pollStrobe, State.polled]

theorem pollStrobe_sck (s : State) : (s.pollStrobe call).sck = !s.sck := strobe_sck _

theorem pollStrobe_port (s : State) : (s.pollStrobe call).port = s.port ^^^ bitMask s.params.pinSck := strobe_port _

theorem pollStrobe_cnt (h : s.params.hwFaultNoOverflow = false) : (s.pollStrobe call).cnt = s.cnt + 1 := strobe_cnt h

theorem pollStrobe_ovf (h : s.params.hwFaultNoOverflow = false) :
    (s.pollStrobe call).ovf = (s.ovf || s.cnt == 15#4) := strobe_ovf h

theorem pollStrobe_statDraws (s : State) : (s.pollStrobe call).statDraws = s.statDraws + 1 := strobe_statDraws _

theorem pollStrobe_latchHolds (s : State) : (s.pollStrobe call).LatchHolds := strobe_latchHolds _

@[simp] theorem polled_dr (s : State) : (s.polled call).dr = s.dr := rfl
@[simp] theorem polled_dol (s : State) : (s.polled call).dol = s.dol := rfl
@[simp] theorem polled_sck (s : State) : (s.polled call).sck = s.sck := rfl
@[simp] theorem polled_lineLevel (s : State) : (s.polled call).lineLevel = s.lineLevel := rfl
@[simp] theorem polled_wireDraws (s : State) : (s.polled call).wireDraws = s.wireDraws := rfl
@[simp] theorem polled_drawsForBits (s : State) (j : Nat) : (s.polled call).drawsForBits j = s.drawsForBits j := rfl

theorem polled_history (s : State) : (s.polled call).history =
    s.history ++ [.regR .stat (s.regValue .stat), .regW .ctrl (s.ctrlByte ||| 0x01)] := by
  simp [State.polled, noteRead_history]

/-- A poll and a strobe with a sampling edge. -/
theorem pollStrobe_sampling (hk : s.sck = s.cs0) (hc : s.configured = true) :
    (s.pollStrobe call).dr = s.dr.extractLsb' 0 7 ++ BitVec.ofBool s.lineLevel ∧ (s.pollStrobe call).dol = s.dol ∧
    (s.pollStrobe call).wireDraws = s.wireDraws + s.drawsForBits 1 ∧
    (s.pollStrobe call).history = s.history ++ [.regR .stat (s.regValue .stat), .regW .ctrl (s.ctrlByte ||| 0x01),
      .edge (!s.sck) s.dol (some s.lineLevel)] := by
  obtain ⟨hdr, hdol, hw, hh⟩ := strobe_sampling (s := s.polled call) hk hc
  simp [State.pollStrobe, hdr, hdol, hw, hh, polled_history]

/-- A poll and a strobe with a setup edge. -/
theorem pollStrobe_setup (hk : s.sck ≠ s.cs0) :
    (s.pollStrobe call).dr = s.dr ∧ (s.pollStrobe call).dol = s.dr.getLsbD 7 ∧
    (s.pollStrobe call).wireDraws = s.wireDraws ∧
    (s.pollStrobe call).history = s.history ++ [.regR .stat (s.regValue .stat), .regW .ctrl (s.ctrlByte ||| 0x01),
      .edge (!s.sck) (s.dr.getLsbD 7) none] := by
  obtain ⟨hdr, hdol, hw, hh⟩ := strobe_setup (s := s.polled call) hk
  simp [State.pollStrobe, hdr, hdol, hw, hh, polled_history]

end

/-- `t` is `s`, at its first poll of a byte, after `j` bits. -/
structure BitsDone (s : State) (j : Nat) (t : State) : Prop where
  frame : SameSettings s t
  port : t.port = s.port
  phase : t.phase = s.phase
  locals : t.locals = s.locals
  mem : t.mem = s.mem
  point : t.point = s.point
  cnt : t.cnt = BitVec.ofNat 4 (2 * j)
  ovf : t.ovf = decide (8 ≤ j)
  dr : t.dr = s.drAfter j
  dol : t.dol = s.dolAfter j
  wireDraws : t.wireDraws = s.wireDraws + s.drawsForBits j
  statDraws : t.statDraws = s.statDraws + 2 * j
  history : t.history = s.history ++ (List.range j).flatMap s.bitEvents

theorem BitsDone.zero {s : State} (hcnt : s.cnt = 0) (hovf : s.ovf = false) : BitsDone s 0 s where
  frame := .refl s
  port := rfl
  phase := rfl
  locals := rfl
  mem := rfl
  point := rfl
  cnt := hcnt
  ovf := hovf
  dr := rfl
  dol := rfl
  wireDraws := by cases hw : s.params.wiring <;> simp [State.drawsForBits, hw]
  statDraws := rfl
  history := by simp

/-- The level on the data-in line while bit `j` stands in the latch. -/
theorem lineLevel_eq_levelIn {s t : State} {j : Nat} (hj : j < 8) (hp : t.params = s.params)
    (hd : t.dol = (s.drAfter j).getLsbD 7) (hw : t.wireDraws = s.wireDraws + s.drawsForBits j) :
    t.lineLevel = s.levelIn j := by
  cases hwir : s.params.wiring <;>
    simp only [State.lineLevel, State.levelIn, State.drawsForBits, hp, hwir, hd, hw, drAfter_top s hj]

/-- The edge counter after an even number of strobes below sixteen, and after one more (R19). -/
theorem cnt_of_bits {j : Nat} (hj : j < 8) :
    (BitVec.ofNat 4 (2 * j) == 15#4) = false ∧ (BitVec.ofNat 4 (2 * j + 1) == 15#4) = decide (8 ≤ j + 1) := by
  decide +revert

section
variable (call : Nat) {s t : State} {j : Nat}

theorem pollStrobe_configured (s : State) : (s.pollStrobe call).configured = s.configured :=
  (pollStrobe_sameSettings call s).configured

/-- The edges of one bit: the two strobes take the level in and leave with the latch as `dolAfter` says. -/
theorem BitsDone.edges (h : BitsDone s j t) (hj : j < 8) (hv : s.params.variant = .usi) (hc : s.configured = true)
    (hl : s.LatchHolds) :
    let u := t.pollStrobe call
    let w := u.pollStrobe call
    w.dr = s.drAfter (j + 1) ∧ w.dol = s.dolAfter (j + 1) ∧
    w.wireDraws = s.wireDraws + s.drawsForBits (j + 1) ∧
    w.history = t.history ++ [.regR .stat (t.regValue .stat), .regW .ctrl (t.ctrlByte ||| 0x01), s.firstEdge j,
      .regR .stat (u.regValue .stat), .regW .ctrl (u.ctrlByte ||| 0x01), s.secondEdge j] := by
  intro u w
  have hsck : t.sck = s.sck := by simp only [State.sck, h.port, h.frame.params]
  have hcs0 : t.cs0 = s.cs0 := h.frame.cs0
  have hu := pollStrobe_sameSettings call t
  have husck : u.sck = !s.sck := (pollStrobe_sck call t).trans (by rw [hsck])
  have hucs0 : u.cs0 = s.cs0 := hu.cs0.trans hcs0
  have htc : t.configured = true := h.frame.configured.trans hc
  have htd : t.drawsForBits 1 = s.drawsForBits 1 := drawsForBits_congr h.frame.params 1
  have hud : u.drawsForBits 1 = s.drawsForBits 1 := drawsForBits_congr (hu.params.trans h.frame.params) 1
  by_cases hk : s.sck = s.cs0
  · obtain ⟨hdr, hdol, hw, hh⟩ := pollStrobe_sampling call (hsck.trans (hk.trans hcs0.symm)) htc
    obtain ⟨hdr', hdol', hw', hh'⟩ := pollStrobe_setup call (s := u) (by simp [husck, hucs0, hk])
    have htop : t.dol = (s.drAfter j).getLsbD 7 := h.dol.trans (dolAfter_of_idle hv hl hk j)
    have hin : t.lineLevel = s.levelIn j := lineLevel_eq_levelIn hj h.frame.params htop h.wireDraws
    have hdr1 : u.dr = s.drAfter (j + 1) := by rw [hdr, h.dr, hin]; rfl
    refine ⟨hdr'.trans hdr1, ?_, ?_, ?_⟩
    · rw [hdol', hdr1, State.dolAfter, if_pos hk]
    · rw [hw', hw, h.wireDraws, htd, drawsForBits_succ s j, Nat.add_assoc]
    · rw [hh', hh, hdr1, hsck, husck, htop, hin, State.firstEdge, State.secondEdge, if_pos hk, if_pos hk]
      simp
  · obtain ⟨hdr, hdol, hw, hh⟩ := pollStrobe_setup call (s := t) (by rwa [hsck, hcs0])
    obtain ⟨hdr', hdol', hw', hh'⟩ := pollStrobe_sampling call (s := u)
      (by rw [husck, hucs0]; exact Bool.not_eq.mpr hk) ((pollStrobe_configured call t).trans htc)
    have htop : u.dol = (s.drAfter j).getLsbD 7 := by rw [hdol, h.dr]
    have hin : u.lineLevel = s.levelIn j :=
      lineLevel_eq_levelIn hj (hu.params.trans h.frame.params) htop (hw.trans h.wireDraws)
    refine ⟨?_, ?_, ?_, ?_⟩
    · rw [hdr', hdr, h.dr, hin]; rfl
    · rw [hdol', htop, State.dolAfter, if_neg hk]
    · rw [hw', hw, h.wireDraws, hud, drawsForBits_succ s j, Nat.add_assoc]
    · rw [hh', hh, hsck, husck, htop, hin, h.dr, State.firstEdge, State.secondEdge, if_neg hk, if_neg hk]
      simp

/-- One bit more: two polls that read the flag clear, and two strobes. -/
theorem BitsDone.succ (h : BitsDone s j t) (hj : j < 8) (hp : s.point = .clock call .poll)
    (hv : s.params.variant = .usi) (hc : s.configured = true) (hf : s.params.hwFaultNoOverflow = false)
    (hl : s.LatchHolds) : BitsDone s (j + 1) ((t.pollStrobe call).pollStrobe call) := by
  have hu := pollStrobe_sameSettings call t
  have hw := pollStrobe_sameSettings call (t.pollStrobe call)
  have htf : t.params.hwFaultNoOverflow = false := by rw [h.frame.params, hf]
  have huf : (t.pollStrobe call).params.hwFaultNoOverflow = false := by rw [hu.params, htf]
  obtain ⟨heven, hodd⟩ := cnt_of_bits hj
  have htovf : t.ovf = false := h.ovf.trans (by simpa using hj)
  have hucnt : (t.pollStrobe call).cnt = BitVec.ofNat 4 (2 * j + 1) := by
    rw [pollStrobe_cnt call htf, h.cnt]
    exact (BitVec.ofNat_add (2 * j) 1).symm
  have huovf : (t.pollStrobe call).ovf = false := by rw [pollStrobe_ovf call htf, htovf, h.cnt, heven]; rfl
  obtain ⟨hdr, hdol, hwd, hh⟩ := h.edges call hj hv hc hl
  exact {
    frame := h.frame.trans (hu.trans hw)
    port := by
      rw [pollStrobe_port, pollStrobe_port, hu.params, BitVec.xor_assoc, BitVec.xor_self, BitVec.xor_zero, h.port]
    phase := by rw [pollStrobe_phase, pollStrobe_phase, h.phase]
    locals := by rw [pollStrobe_locals, pollStrobe_locals, h.locals]
    mem := by rw [pollStrobe_mem, pollStrobe_mem, h.mem]
    point := hp.symm
    cnt := by
      rw [pollStrobe_cnt call huf, hucnt]
      exact (BitVec.ofNat_add (2 * j + 1) 1).symm
    ovf := by rw [pollStrobe_ovf call huf, huovf, hucnt, hodd]; rfl
    dr := hdr
    dol := hdol
    wireDraws := hwd
    statDraws := by rw [pollStrobe_statDraws, pollStrobe_statDraws, h.statDraws]; omega
    history := by
      have hctrl : t.ctrlByte = s.ctrlByte := by simp only [State.ctrlByte, h.frame.ctrl]
      have huctrl : (t.pollStrobe call).ctrlByte = s.ctrlByte := by simp only [State.ctrlByte, hu.ctrl, h.frame.ctrl]
      have hpoll : t.regValue .stat = s.pollByte (2 * j) := by
        simp only [State.regValue, State.pollByte, h.statDraws, htovf, h.cnt]
      have hupoll : (t.pollStrobe call).regValue .stat = s.pollByte (2 * j + 1) := by
        simp only [State.regValue, State.pollByte, pollStrobe_statDraws, h.statDraws, huovf, hucnt, Nat.add_assoc]
      rw [hh, h.history, hctrl, huctrl, hpoll, hupoll, List.range_succ, List.flatMap_append, List.flatMap_singleton,
        List.append_assoc]
      rfl }

end

/-! ### `ClockByte()` -/

section
variable {m : State → Result} {call ret : Nat} {s t : State}
  (hm : ∀ l u, u.point = .clock call l → m u = clockByte call ret l u)
include hm

theorem pollStrobe_continues (hp : t.point = .clock call .poll) (ho : t.ovf = false) (hv : t.params.variant = .usi)
    (hc : t.configured = true) (hs : t.saved.isSome = true) (hl : t.LatchHolds) :
    Continues m 2 t (t.pollStrobe call) := by
  have hpoll : m t = .next ((t.noteRead .stat).goto (.clock call .strobe)) := by
    simp [hm _ _ hp, clockByte, regRead, regExists, hv, ho]
  have hstrobe : m ((t.noteRead .stat).goto (.clock call .strobe)) = .next (t.pollStrobe call) := by
    rw [hm .strobe _ rfl, clockByte]
    rw [setBits_strobe (s := (t.noteRead .stat).goto _) hv (clkCfg_of_configured hc) hl]
    rfl
  exact (Continues.single_masked hpoll (by simp) (by simpa using hs)).trans
    (.single_masked hstrobe (by simp [State.pollStrobe]) (by simpa [(pollStrobe_sameSettings call t).saved] using hs))

/-- The polling loop (lines 3 to 5 of R83), bit by bit. -/
theorem bits_continue (hp : s.point = .clock call .poll) (hcnt : s.cnt = 0) (hovf : s.ovf = false)
    (hv : s.params.variant = .usi) (hc : s.configured = true) (hf : s.params.hwFaultNoOverflow = false)
    (hs : s.saved.isSome = true) (hl : s.LatchHolds) (j : Nat) (hj : j ≤ 8) :
    ∃ t, Continues m (4 * j) s t ∧ BitsDone s j t ∧ t.LatchHolds := by
  induction j with
  | zero => exact ⟨s, .refl s, .zero hcnt hovf, hl⟩
  | succ j ih =>
    obtain ⟨t, ht, hb, hlt⟩ := ih (by omega)
    have hu := pollStrobe_sameSettings call t
    have htovf : t.ovf = false := hb.ovf.trans (by simpa using hj)
    have huovf : (t.pollStrobe call).ovf = false := by
      rw [pollStrobe_ovf call (by rw [hb.frame.params, hf]), htovf, hb.cnt, (cnt_of_bits (by omega)).1]; rfl
    have h1 := pollStrobe_continues hm (hb.point.trans hp) htovf (by rw [hb.frame.params, hv])
      (hb.frame.configured.trans hc) (by rw [hb.frame.saved, hs]) hlt
    have h2 := pollStrobe_continues hm (t := t.pollStrobe call) rfl huovf (by rw [hu.params, hb.frame.params, hv])
      (hu.configured.trans (hb.frame.configured.trans hc)) (by rw [hu.saved, hb.frame.saved, hs])
      (pollStrobe_latchHolds call t)
    exact ⟨_, ht.trans (h1.trans h2), hb.succ call (by omega) hp hv hc hf hl, pollStrobe_latchHolds call _⟩

end

/-- The events of one `ClockByte()` (R83). -/
def State.clockEvents (s : State) : List Event :=
  [.regW .stat 0x40, .critEnter s.gie] ++ (List.range 8).flatMap s.bitEvents ++
  [.regR .stat (statByte (statBits (s.statDraws + 16)) true 0), .critExit s.gie]

/-- `t` is `s` after one `ClockByte()` that returns to line `ret` (R83, R86): the byte received is in the shift
register. -/
structure ByteClocked (ret : Nat) (s t : State) : Prop where
  frame : SameSettings s t
  port : t.port = s.port
  phase : t.phase = .idle
  locals : t.locals = s.locals
  mem : t.mem = s.mem
  point : t.point = .line ret
  cnt : t.cnt = 0
  ovf : t.ovf = true
  dr : t.dr = s.received 0 s.dr
  dol : t.dol = s.latchAfter s.dr (s.received 0 s.dr)
  wireDraws : t.wireDraws = s.wireDraws + s.drawnFor 1
  statDraws : t.statDraws = s.statDraws + 17
  history : withoutPreempts t.history = withoutPreempts s.history ++ s.clockEvents

theorem drawsForBits_eight (s : State) : s.drawsForBits 8 = s.drawnFor 1 := by
  cases hw : s.params.wiring <;> simp [State.drawsForBits, State.drawnFor, hw]

theorem withoutPreempts_bitEvents (s : State) (n : Nat) :
    withoutPreempts ((List.range n).flatMap s.bitEvents) = (List.range n).flatMap s.bitEvents := by
  have h (j : Nat) : withoutPreempts (s.bitEvents j) = s.bitEvents j := by
    simp only [withoutPreempts, State.bitEvents, State.firstEdge, State.secondEdge]
    split <;> simp
  simp only [withoutPreempts] at h ⊢
  simp only [List.filter_flatMap, h]

theorem bitEvents_congr {s t : State} (hp : t.params = s.params) (hc : t.ctrl = s.ctrl) (hport : t.port = s.port)
    (hd : t.dr = s.dr) (hw : t.wireDraws = s.wireDraws) (hs : t.statDraws = s.statDraws) :
    t.bitEvents = s.bitEvents := by
  funext j
  simp only [State.bitEvents, State.firstEdge, State.secondEdge, State.pollByte, State.drAfter, State.sck, State.cs0,
    State.ctrlByte, hp, hc, hport, hd, hs,
    show t.levelIn = s.levelIn from funext fun k => by simp only [State.levelIn, hp, hd, hw]]
  rfl

/-- Line 1 of `ClockByte()` (R83): the flag and the counter are cleared. -/
def State.cleared (call : Nat) (s : State) : State :=
  ((s.emit (.regW .stat 0x40)).writeStat 0x40).goto (.clock call .enter)

/-- The state in which the first poll of a byte is made, if `s` is the one before line 1 of `ClockByte()` (R83): the
critical section is open. -/
def State.opened (call : Nat) (s : State) : State :=
  ((s.cleared call).passYield.critEnter.setPhase .clocking).goto (.clock call .poll)

/-- The state after the last two lines of `ClockByte()` (R83), if `t` is the one in which the flag is polled set and `g`
the interrupt flag that the section saved. -/
def State.closed (ret : Nat) (g : Bool) (t : State) : State :=
  (({ t.noteRead .stat with saved := none, gie := g }.emit (.critExit g)).setPhase .idle).goto (.line ret)

section
variable (call : Nat) (s : State)

@[simp] theorem opened_params : (s.opened call).params = s.params := by simp [State.opened, State.cleared]

@[simp] theorem opened_saved : (s.opened call).saved = some s.gie := by simp [State.opened, State.cleared]

theorem opened_configured : (s.opened call).configured = s.configured := by
  simp [State.configured, State.opened, State.cleared, State.wm1, State.wm0, State.cs1, State.clk, State.ctrlByte]

theorem opened_bitEvents : (s.opened call).bitEvents = s.bitEvents := by
  apply bitEvents_congr <;> simp [State.opened, State.cleared]

theorem opened_received : (s.opened call).received 0 (s.opened call).dr = s.received 0 s.dr := by
  simp [State.received, State.opened, State.cleared]

theorem opened_latchAfter (b r : Byte) : (s.opened call).latchAfter b r = s.latchAfter b r := by
  simp [State.latchAfter, State.opened, State.cleared, State.sck, State.cs0, State.ctrlByte]

theorem opened_history :
    withoutPreempts (s.opened call).history = withoutPreempts s.history ++ [.regW .stat 0x40, .critEnter s.gie] := by
  simp [State.opened, State.cleared]

end

/-- What the polling loop comes to between the two ends of its critical section. -/
theorem BitsDone.byteClocked {call ret : Nat} {s t : State} (h : BitsDone (s.opened call) 8 t) (hs : s.saved = none) :
    ByteClocked ret s (t.closed ret s.gie).passYield where
  frame := by
    constructor <;> simp [State.closed, State.opened, State.cleared, hs, h.frame.params, h.frame.cmds, h.frame.cp,
      h.frame.ctrl, h.frame.ddr, h.frame.hctrl, h.frame.dataMode, h.frame.initialized, h.frame.interruptMode,
      h.frame.interruptMask, h.frame.ret]
  port := by simp [State.closed, State.opened, State.cleared, h.port]
  phase := by simp [State.closed]
  locals := by simp [State.closed, State.opened, State.cleared, h.locals]
  mem := by simp [State.closed, State.opened, State.cleared, h.mem]
  point := by simp [State.closed]
  cnt := by simp [State.closed, h.cnt]
  ovf := by simp [State.closed, h.ovf]
  dr := calc
    (t.closed ret s.gie).passYield.dr = t.dr := by simp [State.closed]
    _ = s.received 0 s.dr := by rw [h.dr, drAfter_eight, opened_received]
  dol := calc
    (t.closed ret s.gie).passYield.dol = t.dol := by simp [State.closed]
    _ = s.latchAfter s.dr (s.received 0 s.dr) := by
      rw [h.dol, dolAfter_eight, opened_received, opened_latchAfter]
      simp [State.opened, State.cleared]
  wireDraws := calc
    (t.closed ret s.gie).passYield.wireDraws = t.wireDraws := by simp [State.closed]
    _ = s.wireDraws + s.drawnFor 1 := by
      rw [h.wireDraws, drawsForBits_eight]
      simp [State.opened, State.cleared, State.drawnFor]
  statDraws := by simp [State.closed, State.noteRead, h.statDraws, State.opened, State.cleared]
  history := by
    have hpoll : t.regValue .stat = statByte (statBits (s.statDraws + 16)) true 0 := by
      simp [State.regValue, h.statDraws, h.ovf, h.cnt, State.opened, State.cleared]
    simp [State.closed, noteRead_history, hpoll, h.history, opened_history, withoutPreempts_bitEvents, opened_bitEvents,
      State.clockEvents]

section
variable {m : State → Result} {call ret : Nat} {s t : State}
  (hm : ∀ l u, u.point = .clock call l → m u = clockByte call ret l u)
include hm

theorem opened_continues (hp : s.point = .clock call .clear) (hv : s.params.variant = .usi) :
    Continues m 2 s (s.opened call) := by
  have hclear : m s = .next (s.cleared call) := by
    rw [hm _ _ hp, clockByte, regWrite, if_pos (by simp [regExists, hv])]
    rfl
  have henter : m (s.cleared call).passYield = .next (s.opened call) := by
    rw [hm .enter _ (by simp [State.cleared])]
    rfl
  exact (Continues.single hclear (by simp [State.cleared])).trans
    (.single_masked henter (by simp [State.opened]) (by simp [State.opened]))

theorem closed_continues {g : Bool} (hp : t.point = .clock call .poll) (ho : t.ovf = true)
    (hv : t.params.variant = .usi) (hs : t.saved = some g) : Continues m 2 t (t.closed ret g).passYield := by
  have hpoll : m t = .next (((t.noteRead .stat).setPhase .done).goto (.clock call .exit)) := by
    simp [hm _ _ hp, clockByte, regRead, regExists, hv, ho]
  have hexit : m (((t.noteRead .stat).setPhase .done).goto (.clock call .exit)) = .next (t.closed ret g) := by
    rw [hm .exit _ rfl, clockByte, critExit]
    simp only [goto_saved, setPhase_saved, noteRead_saved, hs]
    rfl
  exact (Continues.single_masked hpoll (by simp) (by simp [hs])).trans (.single hexit (by simp [State.closed]))

/-- `ClockByte()` on working hardware takes its 36 micro-operations and exchanges one byte (R83, R86). -/
theorem clockByte_continues (hp : s.point = .clock call .clear)
    (hv : s.params.variant = .usi) (hc : s.configured = true) (hf : s.params.hwFaultNoOverflow = false)
    (hs : s.saved = none) (hl : s.LatchHolds) :
    ∃ t, Continues m clockByteMicros s t ∧ ByteClocked ret s t := by
  have hol : (s.opened call).LatchHolds := by
    simpa [State.LatchHolds, State.opened, State.cleared, State.sck, State.cs0, State.ctrlByte] using hl
  obtain ⟨t, ht, hb, -⟩ := bits_continue hm (s := s.opened call) rfl (by simp [State.opened, State.cleared])
    (by simp [State.opened, State.cleared]) (by simpa using hv) ((opened_configured call s).trans hc)
    (by simpa using hf) (by simp) hol 8 le_rfl
  have hclose := closed_continues hm (t := t) (ret := ret) hb.point hb.ovf
    (by rw [hb.frame.params]; simpa using hv) (hb.frame.saved.trans (opened_saved call s))
  exact ⟨_, (opened_continues hm hp hv).trans (ht.trans hclose), hb.byteClocked hs⟩

end

end Sys2Proof.Machine
end

section
/-! The bytes of a buffer (spec/41_transfer.md R89; spec/20_memory.md R44, R45): what each turn of `XFERBUF`'s loop
comes to, and where a byte without a value stops it. -/

namespace Sys2Proof.Machine

open Sys2Proof.Config

/-! ### Addresses and events -/

theorem toNat_addr_add {addr : Addr} {k : Nat} (h : addr.toNat + k < 2 ^ 16) :
    (addr + BitVec.ofNat 16 k).toNat = addr.toNat + k := by
  rw [BitVec.toNat_add, BitVec.toNat_ofNat, Nat.mod_eq_of_lt (by omega : k < 2 ^ 16), Nat.mod_eq_of_lt h]

theorem addr_add_succ (addr : Addr) (k : Nat) : addr + BitVec.ofNat 16 k + 1 = addr + BitVec.ofNat 16 (k + 1) := by
  rw [BitVec.ofNat_add, BitVec.add_assoc]
  rfl

@[simp] theorem edgesOf_append (g h : List Event) : edgesOf (g ++ h) = edgesOf g ++ edgesOf h := List.filter_append ..

/-- The interrupt agent makes no clock edge. -/
theorem edgesOf_withoutPreempts (h : List Event) : edgesOf (withoutPreempts h) = edgesOf h := by
  rw [edgesOf, edgesOf, withoutPreempts, List.filter_filter]
  congr 1
  funext e
  cases e <;> simp

theorem edgesOf_bitEvents (s : State) (j : Nat) : edgesOf (s.bitEvents j) = [s.firstEdge j, s.secondEdge j] := by
  simp only [State.bitEvents, State.firstEdge, State.secondEdge]
  split <;> rfl

/-- A byte is clocked with sixteen edges (R83). -/
theorem length_edgesOf_clockEvents (s : State) : (edgesOf s.clockEvents).length = 16 := by
  have hbits : edgesOf ((List.range 8).flatMap s.bitEvents) =
      (List.range 8).flatMap fun j => [s.firstEdge j, s.secondEdge j] := by
    rw [edgesOf, List.filter_flatMap]
    exact List.flatMap_congr fun j _ => edgesOf_bitEvents s j
  rw [State.clockEvents, edgesOf_append, edgesOf_append, hbits]
  simp [edgesOf, List.length_flatMap]

theorem clockEvents_congr {s t : State} (hp : t.params = s.params) (hc : t.ctrl = s.ctrl) (hport : t.port = s.port)
    (hd : t.dr = s.dr) (hw : t.wireDraws = s.wireDraws) (hs : t.statDraws = s.statDraws) (hg : t.gie = s.gie) :
    t.clockEvents = s.clockEvents := by
  simp only [State.clockEvents, bitEvents_congr hp hc hport hd hw hs, hs, hg]

/-- Counted from a state in which `k` bytes have been exchanged, the next one is byte `k`. -/
theorem received_of_exchanged {s t : State} {k : Nat} (hp : t.params = s.params)
    (hw : t.wireDraws = s.wireDraws + s.drawnFor k) (b : Byte) : t.received 0 b = s.received k b := by
  cases hwir : s.params.wiring <;> simp [State.received, State.drawnFor, hp, hwir, hw]

theorem drawnFor_succ (s : State) (k : Nat) : s.drawnFor (k + 1) = s.drawnFor k + s.drawnFor 1 := by
  cases hw : s.params.wiring <;> simp [State.drawnFor, hw, Nat.mul_add]

theorem drawnFor_congr {s t : State} (h : t.params = s.params) (k : Nat) : t.drawnFor k = s.drawnFor k := by
  simp only [State.drawnFor, h]

/-! ### Writing `DATA` -/

/-- The state after a write of `DATA` (R21, R22, R101). -/
def State.loaded (v : Byte) (s : State) : State := { s.emit (.regW .data v) with dr := v }.relatch

theorem regWrite_data {s : State} (hv : s.params.variant = .usi) (v : Byte) :
    regWrite .data v s = .next (s.loaded v) := by
  rw [regWrite, if_pos (by simp [regExists, hv])]
  rfl

@[simp] theorem loaded_locals (v : Byte) (s : State) : (s.loaded v).locals = s.locals := by simp [State.loaded]

theorem loaded_latchHolds (v : Byte) (s : State) : (s.loaded v).LatchHolds := relatch_latchHolds _

/-! ### One turn of the loop -/

section
variable {addr : Addr} {count : Word} {s t u : State} {k : Nat}

theorem memRead_of_some {a : Addr} {k : Byte → State → Result} {v : Byte} (h : memGet s.mem a.toNat = some v) :
    memRead a k s = k v (s.emit (.memR a v)) := by
  simp only [memRead, h]

theorem memRead_of_none {a : Addr} {k : Byte → State → Result} (h : memGet s.mem a.toNat = none) :
    memRead a k s = .fault (.memNoValue a) := by
  simp only [memRead, h]

theorem microXferBuf_of_pos (h0 : count ≠ 0) (s : State) : microXferBuf addr count s = microBuffer addr count s :=
  if_neg h0

/-- Line 6 (R89): the next byte is fetched. -/
def State.fetched (addr : Addr) (nxt : Byte) (t : State) : State :=
  ((t.emit (.memR (addr + t.locals.i + 1) nxt)).setLocals { t.locals with nxt := nxt }).goto (.clock 7 .clear)

/-- Line 8 (R89): the byte received is taken from `DATA`. -/
def State.takenIn (t : State) : State := ((t.noteRead .data).setLocals { t.locals with inp := t.dr }).goto (.line 9)

/-- Line 9 (R89): the next byte to send is written to `DATA`. -/
def State.reloaded (t : State) : State := (t.loaded t.locals.nxt).goto (.line 10)

/-- Line 10 (R89): the byte received is written to memory. -/
def State.stored (addr : Addr) (count : Word) (t : State) : State :=
  ((t.memWrite (addr + t.locals.i) t.locals.inp).setLocals { t.locals with i := t.locals.i + 1 }).goto
    (bufferHead count (t.locals.i + 1))

theorem microXferBuf_fetch (h0 : count ≠ 0) (hp : t.point = .line 6) {nxt : Byte}
    (hn : memGet t.mem (addr + t.locals.i + 1).toNat = some nxt) :
    microXferBuf addr count t = .next (t.fetched addr nxt) := by
  simp only [microXferBuf_of_pos h0, microBuffer, hp]
  exact memRead_of_some hn

theorem microXferBuf_fetch_fault (h0 : count ≠ 0) (hp : t.point = .line 6)
    (hn : memGet t.mem (addr + t.locals.i + 1).toNat = none) :
    microXferBuf addr count t = .fault (.memNoValue (addr + t.locals.i + 1)) := by
  simp only [microXferBuf_of_pos h0, microBuffer, hp]
  exact memRead_of_none hn

theorem microXferBuf_clock (h0 : count ≠ 0) (l : ByteLine) (t : State) (hp : t.point = .clock 7 l) :
    microXferBuf addr count t = clockByte 7 8 l t := by
  simp only [microXferBuf_of_pos h0, microBuffer, hp]

theorem microXferBuf_takeIn (h0 : count ≠ 0) (hp : t.point = .line 8) (hv : t.params.variant = .usi) :
    microXferBuf addr count t = .next t.takenIn := by
  simp [microXferBuf_of_pos h0, microBuffer, hp, regRead, regExists, hv, State.regValue, State.takenIn]

theorem microXferBuf_reload (h0 : count ≠ 0) (hp : t.point = .line 9) (hv : t.params.variant = .usi) :
    microXferBuf addr count t = .next t.reloaded := by
  simp [microXferBuf_of_pos h0, microBuffer, hp, regWrite_data hv, State.reloaded]

theorem microXferBuf_store (h0 : count ≠ 0) (hp : t.point = .line 10) :
    microXferBuf addr count t = .next (t.stored addr count) := by
  simp only [microXferBuf_of_pos h0, microBuffer, hp, State.stored]

/-- `b`, at line 8, after lines 8 to 11 (R89) and the `yield`s between them. -/
def State.turned (addr : Addr) (count : Word) (b : State) : State :=
  (b.takenIn.passYield.reloaded.passYield.stored addr count).passYield

section
variable (addr : Addr) (count : Word) (nxt : Byte) (s : State)

theorem fetched_sameSettings : SameSettings s (s.fetched addr nxt).passYield := by
  constructor <;> simp [State.fetched]

/-- `u` is `b`, at line 8, after lines 8 to 11 (R89): the byte received is in memory, the next one to send in `DATA`. -/
structure ByteLanded (b u : State) : Prop where
  frame : SameSettings b u
  latch : u.LatchHolds
  history : withoutPreempts u.history = withoutPreempts b.history ++
    [.regR .data b.dr, .regW .data b.locals.nxt, .memW (addr + b.locals.i) b.dr]
  port : u.port = b.port
  phase : u.phase = b.phase
  point : u.point = bufferHead count (b.locals.i + 1)
  counter : u.locals.i = b.locals.i + 1
  cnt : u.cnt = b.cnt
  ovf : u.ovf = b.ovf
  dr : u.dr = b.locals.nxt
  wireDraws : u.wireDraws = b.wireDraws
  statDraws : u.statDraws = b.statDraws
  mem : u.mem = memSet b.mem (addr + b.locals.i).toNat b.dr

/-- The latch follows the byte just loaded (R22). -/
theorem turned_latchHolds : (s.turned addr count).LatchHolds := by
  have hload : s.takenIn.passYield.reloaded.LatchHolds := (goto_sameBus _ _).latchHolds (loaded_latchHolds _ _)
  have hstore : Access [] s.takenIn.passYield.reloaded.passYield
      (s.takenIn.passYield.reloaded.passYield.stored addr count) := .memory (setLocals_goto_sameBus _ _ _)
  exact (passYield_sameBus _).latchHolds (hstore.latchHolds ((passYield_sameBus _).latchHolds hload))

theorem turned_byteLanded : ByteLanded addr count s (s.turned addr count) := by
  have hframe : SameSettings s (s.turned addr count) := by
    constructor <;> simp [State.turned, State.stored, State.reloaded, State.loaded, State.takenIn]
  have hhist : withoutPreempts (s.turned addr count).history = withoutPreempts s.history ++
      [.regR .data s.dr, .regW .data s.locals.nxt, .memW (addr + s.locals.i) s.dr] := by
    simp [State.turned, State.stored, State.reloaded, State.loaded, State.takenIn, noteRead_history, State.regValue]
  refine ⟨hframe, turned_latchHolds addr count s, hhist, ?_, ?_, ?_, ?_, ?_, ?_, ?_, ?_, ?_, ?_⟩ <;>
    simp [State.turned, State.stored, State.reloaded, State.loaded, State.takenIn, State.noteRead]

end

/-- `u` is `t` after one turn of the loop (lines 6 to 11 of R89), in which the next byte `nxt` was fetched. -/
structure LoopTurn (addr : Addr) (count : Word) (nxt : Byte) (t u : State) : Prop where
  frame : SameSettings t u
  port : u.port = t.port
  phase : u.phase = .idle
  counter : u.locals.i = t.locals.i + 1
  point : u.point = bufferHead count (t.locals.i + 1)
  latch : u.LatchHolds
  cnt : u.cnt = 0
  ovf : u.ovf = true
  dr : u.dr = nxt
  mem : u.mem = memSet t.mem (addr + t.locals.i).toNat (t.received 0 t.dr)
  wireDraws : u.wireDraws = t.wireDraws + t.drawnFor 1
  statDraws : u.statDraws = t.statDraws + 17
  history : withoutPreempts u.history = withoutPreempts t.history ++
    ([.memR (addr + t.locals.i + 1) nxt] ++ t.clockEvents ++
      [.regR .data (t.received 0 t.dr), .regW .data nxt, .memW (addr + t.locals.i) (t.received 0 t.dr)])

/-- A turn of the loop is its fetch, the byte's `ClockByte()`, and lines 8 to 11. -/
theorem LoopTurn.of_parts {nxt : Byte} {b : State} (h : ByteClocked 8 (t.fetched addr nxt).passYield b)
    (hu : ByteLanded addr count b u) : LoopTurn addr count nxt t u := by
  have hrec : (t.fetched addr nxt).passYield.received 0 (t.fetched addr nxt).passYield.dr = t.received 0 t.dr := by
    simp [State.received, State.fetched]
  have hdr : b.dr = t.received 0 t.dr := h.dr.trans hrec
  have hi : b.locals.i = t.locals.i := by simp [h.locals, State.fetched]
  have hnxt : b.locals.nxt = nxt := by simp [h.locals, State.fetched]
  have hclock : (t.fetched addr nxt).passYield.clockEvents = t.clockEvents := by
    apply clockEvents_congr <;> simp [State.fetched]
  exact {
    frame := (fetched_sameSettings addr nxt t).trans (h.frame.trans hu.frame)
    port := by rw [hu.port, h.port]; simp [State.fetched]
    phase := hu.phase.trans h.phase
    counter := by rw [hu.counter, hi]
    point := by rw [hu.point, hi]
    latch := hu.latch
    cnt := hu.cnt.trans h.cnt
    ovf := hu.ovf.trans h.ovf
    dr := hu.dr.trans hnxt
    mem := by rw [hu.mem, hi, hdr, h.mem]; simp [State.fetched]
    wireDraws := by rw [hu.wireDraws, h.wireDraws]; simp [State.fetched, State.drawnFor]
    statDraws := by rw [hu.statDraws, h.statDraws]; simp [State.fetched]
    history := by rw [hu.history, h.history, hclock, hdr, hnxt, hi]; simp [State.fetched] }

/-- One turn of the loop is 40 micro-operations (R89). -/
theorem loopTurn_continues (h0 : count ≠ 0) (hp : t.point = .line 6) {nxt : Byte}
    (hn : memGet t.mem (addr + t.locals.i + 1).toNat = some nxt) (hv : t.params.variant = .usi)
    (hc : t.configured = true) (hf : t.params.hwFaultNoOverflow = false) (hs : t.saved = none) (hl : t.LatchHolds) :
    ∃ u, Continues (microXferBuf addr count) 40 t u ∧ LoopTurn addr count nxt t u := by
  have hframe := fetched_sameSettings addr nxt t
  have hla : (t.fetched addr nxt).passYield.LatchHolds := by
    simpa [State.fetched, State.LatchHolds, State.sck, State.cs0, State.ctrlByte] using hl
  obtain ⟨b, hb, hby⟩ := clockByte_continues (m := microXferBuf addr count) (s := (t.fetched addr nxt).passYield)
    (microXferBuf_clock h0) (by simp [State.fetched]) (by rw [hframe.params, hv]) (hframe.configured.trans hc)
    (by rw [hframe.params, hf]) (hframe.saved.trans hs) hla
  have hbv : b.params.variant = .usi := by rw [hby.frame.params, hframe.params, hv]
  have h6 := Continues.single (microXferBuf_fetch h0 hp hn) (by simp [State.fetched])
  have h8 := Continues.single (microXferBuf_takeIn (addr := addr) h0 hby.point hbv) (by simp [State.takenIn])
  have h9 := Continues.single (microXferBuf_reload (addr := addr) (t := b.takenIn.passYield) h0
    (by simp [State.takenIn]) (by simpa [State.takenIn] using hbv)) (by simp [State.reloaded])
  have h10 := Continues.single (microXferBuf_store (addr := addr) (t := b.takenIn.passYield.reloaded.passYield) h0
    (by simp [State.reloaded])) (by simp [State.stored, bufferHead_ne_idle])
  exact ⟨_, h6.trans (hb.trans (h8.trans (h9.trans h10))), .of_parts hby (turned_byteLanded addr count b)⟩

/-! ### The buffer up to a byte -/

/-- `t` is `s`, at the first micro-operation of `XFERBUF`, after `k` bytes of its buffer: it stands at the loop's head
with byte `k` in `DATA` (lines 4 and 5 of R89). -/
structure BytesDone (addr : Addr) (count : Word) (s : State) (k : Nat) (t : State) : Prop where
  frame : SameSettings s t
  port : t.port = s.port
  phase : t.phase = .idle
  counter : t.locals.i = BitVec.ofNat 16 k
  point : t.point = bufferHead count (BitVec.ofNat 16 k)
  latch : t.LatchHolds
  dr : memGet s.mem (addr.toNat + k) = some t.dr
  wireDraws : t.wireDraws = s.wireDraws + s.drawnFor k
  statDraws : t.statDraws = s.statDraws + 17 * k
  landed : ∀ j, j < k → memGet t.mem (addr.toNat + j) = (memGet s.mem (addr.toNat + j)).map (s.received j)
  others : ∀ a, a < addr.toNat ∨ addr.toNat + k ≤ a → memGet t.mem a = memGet s.mem a
  edges : (edgesOf t.history).length = (edgesOf s.history).length + 16 * k

/-- Line 2 (R89): the first byte is fetched. -/
def State.fetchedFirst (addr : Addr) (v : Byte) (s : State) : State :=
  ((s.emit (.memR addr v)).setLocals { s.locals with out := v }).goto (.line 3)

/-- Line 3 (R89): the first byte to send is written to `DATA`. -/
def State.started (count : Word) (s : State) : State :=
  ((s.loaded s.locals.out).setLocals { s.locals with i := 0 }).goto (bufferHead count 0)

theorem admitTransfer_of_ready {f : State → Result} (hs : s.ReadyToTransfer) : admitTransfer f s = f s := by
  obtain ⟨-, hv, hc, -⟩ := hs
  simp only [admitTransfer, transferRefusal, hv, hc, if_true]

theorem microXferBuf_idle (h0 : count ≠ 0) (hs : s.ReadyToTransfer) (hb : addr.toNat + count.toNat ≤ 2 ^ 16) :
    microXferBuf addr count s =
      memRead addr (fun v t => .next ((t.setLocals { t.locals with out := v }).goto (.line 3))) s := by
  have ⟨⟨hp, _, _⟩, _⟩ := hs
  simp only [microXferBuf_of_pos h0, microBuffer, hp]
  exact (admitTransfer_of_ready hs).trans (if_pos hb)

theorem microXferBuf_start (h0 : count ≠ 0) (hp : t.point = .line 3) (hv : t.params.variant = .usi) :
    microXferBuf addr count t = .next (t.started count) := by
  simp only [microXferBuf_of_pos h0, microBuffer, hp, regWrite_data hv, andThen_next, loaded_locals, State.started]

theorem bytesDone_zero {v : Byte} (hph : s.phase = .idle) (hn : memGet s.mem addr.toNat = some v) :
    BytesDone addr count s 0 ((s.fetchedFirst addr v).passYield.started count).passYield where
  frame := by constructor <;> simp [State.fetchedFirst, State.started, State.loaded]
  port := by simp [State.fetchedFirst, State.started, State.loaded]
  phase := by simp [State.fetchedFirst, State.started, State.loaded, hph]
  counter := by simp [State.started]
  point := by simp [State.started]
  latch := (passYield_sameBus _).latchHolds ((setLocals_goto_sameBus _ _ _).latchHolds (loaded_latchHolds _ _))
  dr := by simpa [State.fetchedFirst, State.started, State.loaded] using hn
  wireDraws := by
    cases hw : s.params.wiring <;> simp [State.fetchedFirst, State.started, State.loaded, State.drawnFor, hw]
  statDraws := by simp [State.fetchedFirst, State.started, State.loaded]
  landed j hj := absurd hj (Nat.not_lt_zero j)
  others a _ := by simp [State.fetchedFirst, State.started, State.loaded]
  edges := by
    have hnone : edgesOf [.memR addr v, .regW .data v] = [] := rfl
    rw [← edgesOf_withoutPreempts]
    simp [State.fetchedFirst, State.started, State.loaded, edgesOf_withoutPreempts, hnone]

/-- One byte more. -/
theorem BytesDone.succ {nxt : Byte} (h : BytesDone addr count s k t) (hb : addr.toNat + k < 2 ^ 16)
    (hn : memGet s.mem (addr.toNat + (k + 1)) = some nxt) (hu : LoopTurn addr count nxt t u) :
    BytesDone addr count s (k + 1) u := by
  have hi : t.locals.i + 1 = BitVec.ofNat 16 (k + 1) := by rw [h.counter]; exact (BitVec.ofNat_add k 1).symm
  have haddr : (addr + t.locals.i).toNat = addr.toNat + k := by rw [h.counter, toNat_addr_add hb]
  have hrec : t.received 0 t.dr = s.received k t.dr := received_of_exchanged h.frame.params h.wireDraws t.dr
  have hmem (a : Nat) : memGet u.mem a = if a = addr.toNat + k then some (s.received k t.dr) else memGet t.mem a := by
    rw [hu.mem, memGet_memSet, haddr, hrec]
  exact {
    frame := h.frame.trans hu.frame
    port := hu.port.trans h.port
    phase := hu.phase
    counter := hu.counter.trans hi
    point := by rw [hu.point, hi]
    latch := hu.latch
    dr := by rw [hn, hu.dr]
    wireDraws := by
      rw [hu.wireDraws, h.wireDraws, drawnFor_congr h.frame.params, drawnFor_succ s k, Nat.add_assoc]
    statDraws := by rw [hu.statDraws, h.statDraws]; omega
    landed := by
      intro j hj
      rw [hmem]
      by_cases hjk : j = k
      · subst hjk
        rw [if_pos rfl, h.dr]
        rfl
      · rw [if_neg (by omega), h.landed j (by omega)]
    others := by
      intro a ha
      rw [hmem, if_neg (by omega), h.others a (by omega)]
    edges := by
      have hread : edgesOf [.memR (addr + t.locals.i + 1) nxt] = [] := rfl
      have hrest (r : Byte) : edgesOf [.regR .data r, .regW .data nxt, .memW (addr + t.locals.i) r] = [] := rfl
      rw [← edgesOf_withoutPreempts, hu.history, edgesOf_append, edgesOf_append, edgesOf_append,
        edgesOf_withoutPreempts, hread, hrest, List.append_nil, List.nil_append, List.length_append, h.edges,
        length_edgesOf_clockEvents]
      omega }

theorem BytesDone.point_line (h : BytesDone addr count s k t) (hk : k + 1 < count.toNat) : t.point = .line 6 := by
  have hlt : k < 2 ^ 16 := by omega
  rw [h.point, bufferHead, if_pos (by rwa [BitVec.toNat_ofNat, Nat.mod_eq_of_lt hlt])]

theorem BytesDone.fetch_addr (h : BytesDone addr count s k t) :
    addr + t.locals.i + 1 = addr + BitVec.ofNat 16 (k + 1) := by
  rw [h.counter, addr_add_succ]

/-- Byte `k + 1` is fetched from memory as the command found it: only bytes before byte `k` have been written. -/
theorem BytesDone.fetch_mem (h : BytesDone addr count s k t) (hb : addr.toNat + (k + 1) < 2 ^ 16) :
    memGet t.mem (addr + t.locals.i + 1).toNat = memGet s.mem (addr.toNat + (k + 1)) := by
  rw [h.fetch_addr, toNat_addr_add hb, h.others _ (by omega)]

/-- The run gets to byte `k` of a buffer whose bytes up to it hold values, 40 micro-operations a byte (R89). -/
theorem bytesDone_continues (hs : s.ReadyToTransfer) (hb : addr.toNat + count.toNat ≤ 2 ^ 16) (hk : k < count.toNat)
    (hsome : ∀ j, j ≤ k → (memGet s.mem (addr.toNat + j)).isSome = true) :
    ∃ t, Continues (microXferBuf addr count) (40 * k + 2) s t ∧ BytesDone addr count s k t := by
  have h0 : count ≠ 0 := by rintro rfl; exact absurd hk (Nat.not_lt_zero k)
  induction k with
  | zero =>
    have ⟨⟨_, _, hphase⟩, husi, _⟩ := hs
    obtain ⟨v, hv⟩ := Option.isSome_iff_exists.mp (hsome 0 le_rfl)
    have hfetch : microXferBuf addr count s = .next (s.fetchedFirst addr v) := by
      rw [microXferBuf_idle h0 hs hb, memRead_of_some hv]
      rfl
    have hstart := microXferBuf_start (addr := addr) (t := (s.fetchedFirst addr v).passYield) h0
      (by simp [State.fetchedFirst]) (by simpa [State.fetchedFirst] using husi)
    exact ⟨_, (Continues.single hfetch (by simp [State.fetchedFirst])).trans
      (.single hstart (by simp [State.started, bufferHead_ne_idle])), bytesDone_zero hphase hv⟩
  | succ k ih =>
    obtain ⟨t, ht, hd⟩ := ih (by omega) fun j hj => hsome j (by omega)
    obtain ⟨⟨-, hsaved, -⟩, hv, hc, hf⟩ := hs
    obtain ⟨nxt, hn⟩ := Option.isSome_iff_exists.mp (hsome (k + 1) le_rfl)
    obtain ⟨u, hu, hturn⟩ := loopTurn_continues h0 (hd.point_line hk) ((hd.fetch_mem (by omega)).trans hn)
      (by rw [hd.frame.params, hv]) (hd.frame.configured.trans hc) (by rw [hd.frame.params, hf])
      (hd.frame.saved.trans hsaved) hd.latch
    exact ⟨u, by simpa [Nat.mul_add, Nat.add_right_comm] using ht.trans hu, hd.succ (by omega) hn hturn⟩

/-- `t` is the state in which `XFERBUF`, begun in `s`, fetches byte `k` of its buffer (R44, R45): the bytes up to
`k - 2` have been exchanged and written back. -/
structure FetchesByte (addr : Addr) (s : State) (k : Nat) (t : State) : Prop where
  edges : (edgesOf t.history).length = (edgesOf s.history).length + 16 * (k - 1)
  landed : ∀ j, j + 1 < k → memGet t.mem (addr.toNat + j) = (memGet s.mem (addr.toNat + j)).map (s.received j)
  others : ∀ a, a < addr.toNat ∨ addr.toNat + (k - 1) ≤ a → memGet t.mem a = memGet s.mem a

/-- `XFERBUF` stops at the first byte of its buffer that holds no value (R44), before it has taken the micro-operations
of the whole command. -/
theorem continues_to_unwritten (hs : s.ReadyToTransfer) (hk : k < count.toNat)
    (hb : addr.toNat + count.toNat ≤ 2 ^ 16) (hsome : ∀ j, j < k → (memGet s.mem (addr.toNat + j)).isSome = true)
    (hnone : memGet s.mem (addr.toNat + k) = none) :
    ∃ n t, n < xferBufMicros count ∧ Continues (microXferBuf addr count) n s t ∧ FetchesByte addr s k t ∧
      microXferBuf addr count t = .fault (.memNoValue (addr + BitVec.ofNat 16 k)) := by
  have h0 : count ≠ 0 := by rintro rfl; exact absurd hk (Nat.not_lt_zero k)
  have hmicros : xferBufMicros count = 40 * count.toNat := if_neg h0
  cases k with
  | zero =>
    have hfault : microXferBuf addr count s = .fault (.memNoValue (addr + BitVec.ofNat 16 0)) := by
      rw [microXferBuf_idle h0 hs hb, memRead_of_none hnone]
      simp
    exact ⟨0, s, by omega, .refl s, ⟨rfl, fun j hj => absurd hj (by omega), fun _ _ => rfl⟩, hfault⟩
  | succ k =>
    obtain ⟨t, ht, hd⟩ := bytesDone_continues hs hb (by omega : k < count.toNat) fun j hj => hsome j (by omega)
    have hfault := microXferBuf_fetch_fault h0 (hd.point_line hk) ((hd.fetch_mem (by omega)).trans hnone)
    exact ⟨40 * k + 2, t, by omega, ht, ⟨hd.edges, fun j hj => hd.landed j (by omega), hd.others⟩,
      hd.fetch_addr ▸ hfault⟩

end

/-! ### The obligations -/

/-- Settles O45: `exec` gets to the fetch of byte `k` with micro-operations left to take, and the fetch faults. -/
theorem unwrittenByteFaults : Obligations.UnwrittenByteFaults := by
  intro addr count k s hs hk hb hsome hnone
  obtain ⟨n, t, hn, ht, -, hfault⟩ := continues_to_unwritten hs hk hb hsome hnone
  obtain ⟨r, hr⟩ : ∃ r, xferBufMicros count = n + (r + 1) := ⟨xferBufMicros count - n - 1, by omega⟩
  calc exec (.xferBuf addr count) s
      = runCommand (n + (r + 1)) (microXferBuf addr count) s := congrArg (runCommand · _ s) hr
    _ = runCommand (r + 1) (microXferBuf addr count) t := ht.runCommand_eq r
    _ = .fault (.memNoValue (addr + BitVec.ofNat 16 k)) := by rw [runCommand_succ, hfault, andThen_fault]

theorem passYield_readyToTransfer {s : State} (h : s.ReadyToTransfer) : s.passYield.ReadyToTransfer := by
  simpa [State.ReadyToTransfer, State.AtRest, State.configured, State.wm1, State.wm0, State.cs1, State.clk,
    State.ctrlByte] using h

theorem edgesOf_passYield (s : State) : edgesOf s.passYield.history = edgesOf s.history := by
  rw [← edgesOf_withoutPreempts, withoutPreempts_passYield, edgesOf_withoutPreempts]

/-- Settles O58: the steps of the run are the micro-operations up to the fetch of byte `k`, and the next step is that
fetch. -/
theorem earlierBytesLandBeforeAFault : Obligations.EarlierBytesLandBeforeAFault := by
  intro addr count k s w hs hf hd hk hb hsome hnone
  obtain ⟨n, t, -, ht, hat, hfault⟩ := continues_to_unwritten (passYield_readyToTransfer hs) hk hb
    (by simpa using hsome) (by simpa using hnone)
  obtain ⟨u, new, hrun, rfl, huf, hcp, hnew⟩ := Continues.exists_run (i := .xferBuf addr count) ht hd rfl hf
  have hedges : (edgesOf u.history).length = (edgesOf s.history).length + 16 * (k - 1) := by
    simpa [edgesOf_passYield] using hat.edges
  refine ⟨n, u, new, hrun, (step_of_decode huf hd).trans hfault, hcp, hnew, ?_, ?_, ?_⟩
  · rw [hnew, edgesOf_append, List.length_append] at hedges
    omega
  · have hrec : s.passYield.received = s.received := by
      funext j b
      simp [State.received]
    simpa [hrec] using hat.landed
  · simpa using hat.others

end Sys2Proof.Machine
end

section
/-! The encoding (spec/30_encoding.md R55 to R66). A format lets an operand stand in the low bits of a field, with zeros
above it. The decoder's must-be-zero checks, the masks of the opcode table and the encoder all say that of a word, and are
compared format by format. -/

namespace Sys2Proof

theorem assemble_eq_iff {op : BitVec 8} {a b : BitVec 16} {w : CmdWord} :
    assemble op a b = w ↔ opField w = op ∧ aField w = a ∧ bField w = b := by
  constructor
  · rintro rfl
    simp
  · rintro ⟨rfl, rfl, rfl⟩
    exact assemble_fields w

/-! ### Operands in the low bits of a field -/

theorem extractLsb'_eq_zero_iff {n k : Nat} (h : n + k = 16) {f : BitVec 16} :
    f.extractLsb' n k = 0 ↔ ∀ i, n ≤ i → f.getLsbD i = false := by
  constructor
  · intro hz i hi
    by_cases hk : i < 16
    · have hbit := congrArg (·.getLsbD (i - n)) hz
      simpa [Nat.add_sub_cancel' hi, show i - n < k by omega] using hbit
    · exact f.getLsbD_of_ge i (by omega)
  · intro hz
    ext i hi
    simp [hz (n + i)]

/-- The must-be-zero bits of a field with an `n`-bit operand are zero exactly when the field is the operand extended. -/
theorem eq_setWidth_iff {n k : Nat} (h : n + k = 16) {f : BitVec 16} {x : BitVec n} :
    f = x.setWidth 16 ↔ f.extractLsb' n k = 0 ∧ f.extractLsb' 0 n = x := by
  rw [extractLsb'_eq_zero_iff h]
  constructor
  · rintro rfl
    constructor
    · intro i hi
      simp [BitVec.getLsbD_of_ge x i hi]
    · ext i hi
      simp [hi, show i < 16 by omega]
  · rintro ⟨hz, rfl⟩
    apply BitVec.eq_of_getLsbD_eq
    intro i hi
    by_cases hn : i < n
    · simp [hi, hn]
    · simp [hn, hz i (by omega)]

/-- A mask of the bits from `n` upwards says of a field what its must-be-zero bits say. -/
theorem and_mask_eq_zero_iff {n k : Nat} (h : n + k = 16) {f mask : BitVec 16}
    (hmask : ∀ i < 16, mask.getLsbD i = decide (n ≤ i)) : f &&& mask = 0 ↔ f.extractLsb' n k = 0 := by
  rw [extractLsb'_eq_zero_iff h, BitVec.eq_of_getLsbD_eq_iff]
  constructor
  · intro hz i hi
    by_cases hk : i < 16
    · simpa [hmask i hk, hi] using hz i hk
    · exact f.getLsbD_of_ge i (by omega)
  · intro hz i hi
    by_cases hn : n ≤ i
    · simp [hz i hn]
    · simp [hmask i hi, hn]

/-! ### Registers and data modes by number (R58, R59) -/

theorem ofNumber_eq_some_iff {n : BitVec 4} {r : Reg} : Reg.ofNumber n = some r ↔ n = r.number := by
  constructor
  · revert n
    cases r <;> decide
  · rintro rfl
    exact ofNumber_number r

theorem modeOfNumber_eq_iff {n : BitVec 2} {m : DataMode} : DataMode.ofNumber n = m ↔ n = m.number := by
  constructor
  · revert n
    cases m <;> decide
  · rintro rfl
    exact modeOfNumber_number m

theorem mem_namedReg_iff (n : BitVec 4) : n ∈ namedReg ↔ (Reg.ofNumber n).any (fun _ => true) = true := by
  revert n; decide

theorem mem_bitReg_iff (n : BitVec 4) : n ∈ bitReg ↔ (Reg.ofNumber n).any Reg.bitAccessible = true := by
  revert n; decide

theorem mem_anyReg (n : BitVec 4) : n ∈ anyReg := by revert n; decide

/-! ### The operands of the formats -/

theorem eq_byte_iff {b : BitVec 16} {v : Byte} :
    b = v.setWidth 16 ↔ b.extractLsb' 8 8 = 0 ∧ b.extractLsb' 0 8 = v := eq_setWidth_iff rfl

theorem eq_mode_iff {b : BitVec 16} {m : DataMode} :
    b = m.number.setWidth 16 ↔ b.extractLsb' 2 14 = 0 ∧ DataMode.ofNumber (b.extractLsb' 0 2) = m := by
  rw [modeOfNumber_eq_iff]
  exact eq_setWidth_iff rfl

theorem eq_regOperand_iff {a : BitVec 16} {r : Reg} :
    a = regOperand r ↔ a.extractLsb' 4 12 = 0 ∧ Reg.ofNumber (a.extractLsb' 0 4) = some r := by
  rw [ofNumber_eq_some_iff]
  exact eq_setWidth_iff rfl

/-! ### The masks of the opcode table (R66) -/

theorem and_fullMask_iff {f : BitVec 16} : f &&& 0xFFFF#16 = 0#16 ↔ f = 0#16 := by
  rw [show 0xFFFF#16 = BitVec.allOnes 16 from rfl, BitVec.and_allOnes]

theorem and_modeMask_iff {b : BitVec 16} :
    b &&& 0xFFFC#16 = 0#16 ↔ ∃ m : DataMode, b = m.number.setWidth 16 := by
  have hmask : b &&& 0xFFFC#16 = 0#16 ↔ b.extractLsb' 2 14 = 0 := and_mask_eq_zero_iff rfl (by decide)
  simp [hmask, eq_mode_iff]

theorem and_byteMask_iff {b : BitVec 16} : b &&& 0xFF00#16 = 0#16 ↔ ∃ v : Byte, b = v.setWidth 16 := by
  have hmask : b &&& 0xFF00#16 = 0#16 ↔ b.extractLsb' 8 8 = 0 := and_mask_eq_zero_iff rfl (by decide)
  simp [hmask, eq_byte_iff]

/-- The mask of the `reg` field with a row's condition on the register it numbers. -/
theorem and_regMask_iff {a : BitVec 16} {P : Reg → Bool} :
    (a &&& 0xFFF0#16 = 0#16 ∧ (Reg.ofNumber (a.extractLsb' 0 4)).any P = true) ↔
      ∃ r, a = regOperand r ∧ P r = true := by
  have hmask : a &&& 0xFFF0#16 = 0#16 ↔ a.extractLsb' 4 12 = 0 := and_mask_eq_zero_iff rfl (by decide)
  simp only [hmask, eq_regOperand_iff, Option.any_eq_true, and_assoc, exists_and_left]

/-! ### What the decoder of each format answers (R56) -/

theorem ite_error_eq_ok_iff {c : Prop} [Decidable c] {x : Except InvalidWord Instr} {e : InvalidWord} {i : Instr} :
    (if c then x else .error e) = .ok i ↔ c ∧ x = .ok i := by
  split <;> simp [*]

section
variable {a b : BitVec 16} {i : Instr}

theorem decodeZ_eq_ok_iff {c : Instr} : decodeZ a b c = .ok i ↔ a = 0 ∧ b = 0 ∧ c = i := by
  rw [decodeZ, ite_error_eq_ok_iff, and_assoc, Except.ok.injEq]

theorem decodeM_eq_ok_iff {f : DataMode → Instr} :
    decodeM a b f = .ok i ↔ a = 0 ∧ ∃ m : DataMode, b = m.number.setWidth 16 ∧ f m = i := by
  simp [decodeM, ite_error_eq_ok_iff, eq_mode_iff, and_assoc]

theorem decodeB_eq_ok_iff {f : Byte → Instr} :
    decodeB a b f = .ok i ↔ a = 0 ∧ ∃ v : Byte, b = v.setWidth 16 ∧ f v = i := by
  simp [decodeB, ite_error_eq_ok_iff, eq_byte_iff, and_assoc]

theorem decodeW_eq_ok_iff {f : Word → Instr} : decodeW a b f = .ok i ↔ a = 0 ∧ f b = i := by
  rw [decodeW, ite_error_eq_ok_iff, Except.ok.injEq]

theorem decodeReg_eq_ok_iff {f : Reg → Except InvalidWord Instr} :
    decodeReg a f = .ok i ↔ ∃ r, Reg.ofNumber (a.extractLsb' 0 4) = some r ∧ f r = .ok i := by
  unfold decodeReg
  split <;> simp [*]

theorem decodeR_eq_ok_iff {f : Reg → Instr} :
    decodeR a b f = .ok i ↔ ∃ r, a = regOperand r ∧ b = 0 ∧ f r = i := by
  simp only [decodeR, ite_error_eq_ok_iff, decodeReg_eq_ok_iff, eq_regOperand_iff, Except.ok.injEq]
  tauto

theorem decodeRV_eq_ok_iff {f : Reg → Byte → Instr} :
    decodeRV a b f = .ok i ↔
      ∃ r v, a = regOperand r ∧ b = v.setWidth 16 ∧ (f r v).wellFormed = true ∧ f r v = i := by
  simp only [decodeRV, ite_error_eq_ok_iff, decodeReg_eq_ok_iff, eq_regOperand_iff, eq_byte_iff, Except.ok.injEq,
    and_assoc, exists_and_left, exists_eq_left']
  tauto

end

/-! ### The decoder and the encoder -/

theorem assemble_of_fields {op : BitVec 8} {a b : BitVec 16} {w : CmdWord} (hop : (opField w).toNat = op.toNat)
    (ha : aField w = a) (hb : bField w = b) : assemble op a b = w :=
  assemble_eq_iff.mpr ⟨BitVec.eq_of_toNat_eq hop, ha, hb⟩

section
variable {op : BitVec 8} {w : CmdWord} {i : Instr}

theorem encode_of_decodeZ {c : Instr} (hc : c.wellFormed = true ∧ encode c = assemble op 0 0)
    (hop : (opField w).toNat = op.toNat) (h : decodeZ (aField w) (bField w) c = .ok i) :
    i.wellFormed = true ∧ encode i = w := by
  obtain ⟨ha, hb, rfl⟩ := decodeZ_eq_ok_iff.mp h
  exact ⟨hc.1, hc.2.trans (assemble_of_fields hop ha hb)⟩

theorem encode_of_decodeB {f : Byte → Instr}
    (hf : ∀ v, (f v).wellFormed = true ∧ encode (f v) = assemble op 0 (v.setWidth 16))
    (hop : (opField w).toNat = op.toNat) (h : decodeB (aField w) (bField w) f = .ok i) :
    i.wellFormed = true ∧ encode i = w := by
  obtain ⟨ha, v, hb, rfl⟩ := decodeB_eq_ok_iff.mp h
  exact ⟨(hf v).1, (hf v).2.trans (assemble_of_fields hop ha hb)⟩

theorem encode_of_decodeRV {f : Reg → Byte → Instr}
    (hf : ∀ r v, encode (f r v) = assemble op (regOperand r) (v.setWidth 16))
    (hop : (opField w).toNat = op.toNat) (h : decodeRV (aField w) (bField w) f = .ok i) :
    i.wellFormed = true ∧ encode i = w := by
  obtain ⟨r, v, ha, hb, hwf, rfl⟩ := decodeRV_eq_ok_iff.mp h
  exact ⟨hwf, (hf r v).trans (assemble_of_fields hop ha hb)⟩

end

/-- The arms of `decode` in their order, taken together where they are of one format. -/
theorem encode_of_decode {w : CmdWord} {i : Instr} (h : decode w = .ok i) : i.wellFormed = true ∧ encode i = w := by
  unfold decode at h
  split at h
  case h_1 | h_2 | h_13 | h_14 => exact encode_of_decodeZ ⟨rfl, rfl⟩ ‹_› h
  case h_4 | h_11 | h_12 => exact encode_of_decodeB (fun _ => ⟨rfl, rfl⟩) ‹_› h
  case h_8 | h_9 | h_10 => exact encode_of_decodeRV (fun _ _ => rfl) ‹_› h
  case h_3 hop =>
    obtain ⟨ha, m, hb, rfl⟩ := decodeM_eq_ok_iff.mp h
    exact ⟨rfl, assemble_of_fields hop ha hb⟩
  case h_5 hop =>
    obtain ⟨ha, rfl⟩ := decodeW_eq_ok_iff.mp h
    exact ⟨rfl, assemble_of_fields hop ha rfl⟩
  case h_6 hop =>
    cases h
    exact ⟨rfl, assemble_of_fields hop rfl rfl⟩
  case h_7 hop =>
    obtain ⟨r, ha, hb, rfl⟩ := decodeR_eq_ok_iff.mp h
    exact ⟨rfl, assemble_of_fields hop ha hb⟩
  case h_15 => cases h

theorem decode_encode {i : Instr} (hwf : i.wellFormed = true) : decode (encode i) = .ok i := by
  cases i with
  | setBits r m | clrBits r m =>
    simp only [Instr.wellFormed] at hwf
    simp [encode, decode, decodeRV_eq_ok_iff, Instr.wellFormed, hwf]
  | _ =>
    simp [encode, decode, decodeZ_eq_ok_iff, decodeM_eq_ok_iff, decodeB_eq_ok_iff, decodeW_eq_ok_iff, decodeR_eq_ok_iff,
      decodeRV_eq_ok_iff, Instr.wellFormed]

/-! ### The opcode table (R66) -/

theorem opField_and (w m : CmdWord) : opField (w &&& m) = opField w &&& opField m := BitVec.extractLsb'_and
theorem aField_and (w m : CmdWord) : aField (w &&& m) = aField w &&& aField m := BitVec.extractLsb'_and
theorem bField_and (w m : CmdWord) : bField (w &&& m) = bField w &&& bField m := BitVec.extractLsb'_and

theorem extractLsb'_aField (w : CmdWord) : (aField w).extractLsb' 0 4 = w.extractLsb' 16 4 := by
  ext i hi
  simp [aField, show i < 16 by omega]

section
variable {row : OpcodeRow} {w : CmdWord} (op : BitVec 8)

/-- A row read field by field: every row fixes the whole `op` and asks for zeros in the bits it masks of `a` and `b`. -/
theorem admits_iff {ma mb : BitVec 16} (hmask : row.mask = assemble 0xFF ma mb)
    (hpattern : row.pattern = assemble op 0 0) :
    row.admits w = true ↔
      opField w = op ∧ (aField w &&& ma = 0#16 ∧ (aField w).extractLsb' 0 4 ∈ row.regs) ∧
        bField w &&& mb = 0#16 := by
  have hop : opField w &&& 0xFF#8 = opField w := BitVec.and_allOnes
  have hword : w &&& row.mask = row.pattern ↔
      opField w = op ∧ aField w &&& ma = 0#16 ∧ bField w &&& mb = 0#16 := by
    rw [hmask, hpattern, eq_comm, assemble_eq_iff]
    simp only [opField_and, aField_and, bField_and, opField_assemble, aField_assemble, bField_assemble,
      BitVec.ofNat_eq_ofNat, hop]
  simp only [OpcodeRow.admits, Bool.and_eq_true, beq_iff_eq, hword, List.contains_iff_mem, extractLsb'_aField]
  tauto

theorem admits_formatZ_iff (hmask : row.mask = assemble 0xFF 0xFFFF 0xFFFF) (hpattern : row.pattern = assemble op 0 0)
    (hregs : row.regs = anyReg) : row.admits w = true ↔ assemble op 0 0 = w := by
  simp [admits_iff op hmask hpattern, hregs, mem_anyReg, and_fullMask_iff, assemble_eq_iff]

theorem admits_formatM_iff (hmask : row.mask = assemble 0xFF 0xFFFF 0xFFFC) (hpattern : row.pattern = assemble op 0 0)
    (hregs : row.regs = anyReg) :
    row.admits w = true ↔ ∃ m : DataMode, assemble op 0 (m.number.setWidth 16) = w := by
  simp [admits_iff op hmask hpattern, hregs, mem_anyReg, and_fullMask_iff, and_modeMask_iff, assemble_eq_iff]

theorem admits_formatB_iff (hmask : row.mask = assemble 0xFF 0xFFFF 0xFF00) (hpattern : row.pattern = assemble op 0 0)
    (hregs : row.regs = anyReg) : row.admits w = true ↔ ∃ v : Byte, assemble op 0 (v.setWidth 16) = w := by
  simp [admits_iff op hmask hpattern, hregs, mem_anyReg, and_fullMask_iff, and_byteMask_iff, assemble_eq_iff]

theorem admits_formatW_iff (hmask : row.mask = assemble 0xFF 0xFFFF 0) (hpattern : row.pattern = assemble op 0 0)
    (hregs : row.regs = anyReg) : row.admits w = true ↔ ∃ v, assemble op 0 v = w := by
  simp [admits_iff op hmask hpattern, hregs, mem_anyReg, and_fullMask_iff, assemble_eq_iff]

theorem admits_formatAB_iff (hmask : row.mask = assemble 0xFF 0 0) (hpattern : row.pattern = assemble op 0 0)
    (hregs : row.regs = anyReg) : row.admits w = true ↔ ∃ a b, assemble op a b = w := by
  simp [admits_iff op hmask hpattern, hregs, mem_anyReg, assemble_eq_iff]

theorem admits_formatR_iff {P : Reg → Bool} (hmask : row.mask = assemble 0xFF 0xFFF0 0xFFFF)
    (hpattern : row.pattern = assemble op 0 0) (hregs : ∀ n, n ∈ row.regs ↔ (Reg.ofNumber n).any P = true) :
    row.admits w = true ↔ ∃ r, P r = true ∧ assemble op (regOperand r) 0 = w := by
  simp only [admits_iff op hmask hpattern, hregs, BitVec.ofNat_eq_ofNat, and_regMask_iff, and_fullMask_iff,
    assemble_eq_iff]
  tauto

theorem admits_formatRV_iff {P : Reg → Bool} (hmask : row.mask = assemble 0xFF 0xFFF0 0xFF00)
    (hpattern : row.pattern = assemble op 0 0) (hregs : ∀ n, n ∈ row.regs ↔ (Reg.ofNumber n).any P = true) :
    row.admits w = true ↔ ∃ r, ∃ v : Byte, P r = true ∧ assemble op (regOperand r) (v.setWidth 16) = w := by
  simp only [admits_iff op hmask hpattern, hregs, BitVec.ofNat_eq_ofNat, and_regMask_iff, and_byteMask_iff,
    assemble_eq_iff]
  tauto

end

/-- Every command stands in a row of the table, which admits its word. -/
theorem exists_row_admits_encode {i : Instr} (hwf : i.wellFormed = true) :
    ∃ row ∈ opcodeTable, row.mnemonic = i.mnemonic ∧ row.admits (encode i) = true := by
  cases i with
  | beginCmd => exact ⟨opcodeTable[0], List.getElem_mem _, rfl, (admits_formatZ_iff 0x01 rfl rfl rfl).mpr rfl⟩
  | endCmd => exact ⟨opcodeTable[1], List.getElem_mem _, rfl, (admits_formatZ_iff 0x02 rfl rfl rfl).mpr rfl⟩
  | setMode m => exact ⟨opcodeTable[2], List.getElem_mem _, rfl, (admits_formatM_iff 0x03 rfl rfl rfl).mpr ⟨m, rfl⟩⟩
  | xfer8 v => exact ⟨opcodeTable[3], List.getElem_mem _, rfl, (admits_formatB_iff 0x04 rfl rfl rfl).mpr ⟨v, rfl⟩⟩
  | xfer16 v => exact ⟨opcodeTable[4], List.getElem_mem _, rfl, (admits_formatW_iff 0x05 rfl rfl rfl).mpr ⟨v, rfl⟩⟩
  | xferBuf a c =>
    exact ⟨opcodeTable[5], List.getElem_mem _, rfl, (admits_formatAB_iff 0x06 rfl rfl rfl).mpr ⟨a, c, rfl⟩⟩
  | rdReg r =>
    exact ⟨opcodeTable[6], List.getElem_mem _, rfl,
      (admits_formatR_iff 0x08 rfl rfl mem_namedReg_iff).mpr ⟨r, rfl, rfl⟩⟩
  | wrReg r v =>
    exact ⟨opcodeTable[7], List.getElem_mem _, rfl,
      (admits_formatRV_iff 0x09 rfl rfl mem_namedReg_iff).mpr ⟨r, v, rfl, rfl⟩⟩
  | setBits r m =>
    exact ⟨opcodeTable[8], List.getElem_mem _, rfl,
      (admits_formatRV_iff 0x0A rfl rfl mem_bitReg_iff).mpr ⟨r, m, hwf, rfl⟩⟩
  | clrBits r m =>
    exact ⟨opcodeTable[9], List.getElem_mem _, rfl,
      (admits_formatRV_iff 0x0B rfl rfl mem_bitReg_iff).mpr ⟨r, m, hwf, rfl⟩⟩
  | useInt n => exact ⟨opcodeTable[10], List.getElem_mem _, rfl, (admits_formatB_iff 0x10 rfl rfl rfl).mpr ⟨n, rfl⟩⟩
  | noUseInt n => exact ⟨opcodeTable[11], List.getElem_mem _, rfl, (admits_formatB_iff 0x11 rfl rfl rfl).mpr ⟨n, rfl⟩⟩
  | attachInt => exact ⟨opcodeTable[12], List.getElem_mem _, rfl, (admits_formatZ_iff 0x12 rfl rfl rfl).mpr rfl⟩
  | detachInt => exact ⟨opcodeTable[13], List.getElem_mem _, rfl, (admits_formatZ_iff 0x13 rfl rfl rfl).mpr rfl⟩

/-- A word that a row admits is the word of a command of that row. -/
theorem exists_encode_of_admits {row : OpcodeRow} (hrow : row ∈ opcodeTable) {w : CmdWord} (h : row.admits w = true) :
    ∃ i : Instr, i.wellFormed = true ∧ i.mnemonic = row.mnemonic ∧ encode i = w := by
  simp only [opcodeTable, List.mem_cons, List.not_mem_nil, or_false] at hrow
  rcases hrow with rfl | rfl | rfl | rfl | rfl | rfl | rfl | rfl | rfl | rfl | rfl | rfl | rfl | rfl
  · exact ⟨.beginCmd, rfl, rfl, (admits_formatZ_iff 0x01 rfl rfl rfl).mp h⟩
  · exact ⟨.endCmd, rfl, rfl, (admits_formatZ_iff 0x02 rfl rfl rfl).mp h⟩
  · obtain ⟨m, hw⟩ := (admits_formatM_iff 0x03 rfl rfl rfl).mp h
    exact ⟨.setMode m, rfl, rfl, hw⟩
  · obtain ⟨v, hw⟩ := (admits_formatB_iff 0x04 rfl rfl rfl).mp h
    exact ⟨.xfer8 v, rfl, rfl, hw⟩
  · obtain ⟨v, hw⟩ := (admits_formatW_iff 0x05 rfl rfl rfl).mp h
    exact ⟨.xfer16 v, rfl, rfl, hw⟩
  · obtain ⟨a, c, hw⟩ := (admits_formatAB_iff 0x06 rfl rfl rfl).mp h
    exact ⟨.xferBuf a c, rfl, rfl, hw⟩
  · obtain ⟨r, -, hw⟩ := (admits_formatR_iff 0x08 rfl rfl mem_namedReg_iff).mp h
    exact ⟨.rdReg r, rfl, rfl, hw⟩
  · obtain ⟨r, v, -, hw⟩ := (admits_formatRV_iff 0x09 rfl rfl mem_namedReg_iff).mp h
    exact ⟨.wrReg r v, rfl, rfl, hw⟩
  · obtain ⟨r, m, hr, hw⟩ := (admits_formatRV_iff 0x0A rfl rfl mem_bitReg_iff).mp h
    exact ⟨.setBits r m, hr, rfl, hw⟩
  · obtain ⟨r, m, hr, hw⟩ := (admits_formatRV_iff 0x0B rfl rfl mem_bitReg_iff).mp h
    exact ⟨.clrBits r m, hr, rfl, hw⟩
  · obtain ⟨n, hw⟩ := (admits_formatB_iff 0x10 rfl rfl rfl).mp h
    exact ⟨.useInt n, rfl, rfl, hw⟩
  · obtain ⟨n, hw⟩ := (admits_formatB_iff 0x11 rfl rfl rfl).mp h
    exact ⟨.noUseInt n, rfl, rfl, hw⟩
  · exact ⟨.attachInt, rfl, rfl, (admits_formatZ_iff 0x12 rfl rfl rfl).mp h⟩
  · exact ⟨.detachInt, rfl, rfl, (admits_formatZ_iff 0x13 rfl rfl rfl).mp h⟩

theorem opcodeTable_mnemonics_nodup : (opcodeTable.map OpcodeRow.mnemonic).Nodup := by decide

/-- A row of the table admits a word exactly when the decoder answers a command of the row. -/
theorem admits_iff_decode {row : OpcodeRow} (hrow : row ∈ opcodeTable) {w : CmdWord} :
    row.admits w = true ↔ ∃ i, decode w = .ok i ∧ i.mnemonic = row.mnemonic := by
  constructor
  · intro h
    obtain ⟨i, hwf, hm, rfl⟩ := exists_encode_of_admits hrow h
    exact ⟨i, decode_encode hwf, hm⟩
  · rintro ⟨i, hd, hm⟩
    obtain ⟨hwf, rfl⟩ := encode_of_decode hd
    obtain ⟨row', hrow', hm', hadm⟩ := exists_row_admits_encode hwf
    have hrows : row' = row := List.inj_on_of_nodup_map opcodeTable_mnemonics_nodup hrow' hrow (hm'.trans hm)
    exact hrows ▸ hadm

/-! ### The obligations -/

/-- Settles O1: case by case over the commands, each operand is read back from the field its format puts it in. -/
theorem decodeEncodeRoundTrip : Obligations.DecodeEncodeRoundTrip :=
  fun _ => decode_encode

/-- Settles O2: arm by arm of the decoder, the checks on a format's must-be-zero bits leave only its operands' bits. -/
theorem encodeDecodeRoundTrip : Obligations.EncodeDecodeRoundTrip :=
  fun _ _ => encode_of_decode

/-- Settles O3: a row and the decoder admit the same words (`admits_iff_decode`), and a word has one command, whose
mnemonic is that of one row. -/
theorem decoderFollowsOpcodeTable : Obligations.DecoderFollowsOpcodeTable := by
  refine ⟨fun w row hrow => admits_iff_decode hrow, ?_, ?_⟩
  · have hne := List.pairwise_map.mp opcodeTable_mnemonics_nodup
    refine hne.imp_of_mem fun {r r'} hr hr' hm w ⟨hadm, hadm'⟩ => ?_
    obtain ⟨i, hd, hi⟩ := (admits_iff_decode hr).mp hadm
    obtain ⟨i', hd', hi'⟩ := (admits_iff_decode hr').mp hadm'
    cases hd.symm.trans hd'
    exact hm (hi.symm.trans hi')
  · intro w hnone
    cases hd : decode w with
    | error e => exact ⟨e, rfl⟩
    | ok i =>
      obtain ⟨hwf, rfl⟩ := encode_of_decode hd
      obtain ⟨row, hrow, -, hadm⟩ := exists_row_admits_encode hwf
      exact absurd hadm (by simp [hnone row hrow])

/-- Settles O4: each word is evaluated. -/
theorem specWordsDecode : Obligations.SpecWordsDecode :=
  ⟨rfl, rfl, rfl, rfl, rfl, rfl, rfl, rfl, rfl, rfl⟩

/-- Settles O5: the step asks the decoder before anything else of the command. -/
theorem invalidCommandRefused : Obligations.InvalidCommandRefused := by
  intro s w e hrun hf hd
  simp [Machine.step, hrun, hf, hd]

/-- Settles O28: the term's meaning tests the register first, and what the decoder answers is well formed. -/
theorem bitOpsOnStatAndDataInvalid : Obligations.BitOpsOnStatAndDataInvalid := by
  intro r m s hr
  have hbit : r.bitAccessible = false := by rcases hr with rfl | rfl <;> rfl
  refine ⟨by simp [Machine.exec, Machine.execSetBits, hbit], by simp [Machine.exec, Machine.execClrBits, hbit],
    fun w => ⟨fun hd => ?_, fun hd => ?_⟩⟩ <;>
  · obtain ⟨hwf, -⟩ := encode_of_decode hd
    exact absurd hwf (by simp [Instr.wellFormed, hbit])

end Sys2Proof
end

section
/-! The lifecycle of the USI variant (spec/40_lifecycle.md R71 to R76; spec/10_state.md R15, R22, R29): a write of
`CTRL` that does not strobe, the five lines of `BEGIN`, and the one-line commands `SETMODE` and `END`. -/

namespace Sys2Proof.Machine

open Sys2Proof.Config

theorem andThen_of_next {o : Result} {s : State} {f : State → Result} (h : o = .next s) : andThen o f = f s :=
  congrArg (andThen · f) h

/-! ### The bits of `CTRL` -/

theorem wm1_eq_ctrl_bit (s : State) : s.wm1 = s.ctrl.getLsbD 4 := BitVec.getLsbD_append
theorem wm0_eq_ctrl_bit (s : State) : s.wm0 = s.ctrl.getLsbD 3 := BitVec.getLsbD_append
theorem cs1_eq_ctrl_bit (s : State) : s.cs1 = s.ctrl.getLsbD 2 := BitVec.getLsbD_append
theorem cs0_eq_ctrl_bit (s : State) : s.cs0 = s.ctrl.getLsbD 1 := BitVec.getLsbD_append
theorem clk_eq_ctrl_bit (s : State) : s.clk = s.ctrl.getLsbD 0 := BitVec.getLsbD_append

/-! ### A write of `CTRL` that does not strobe -/

/-- A bit-set of stored bits of `CTRL` is one write with bit 0 clear (R107). -/
theorem setBits_ctrl (m : BitVec 7) (s : State) :
    setBits .ctrl (m ++ 0#1) s = regWrite .ctrl ((s.ctrl ||| m) ++ 0#1) s :=
  congrArg (regWrite .ctrl · s) BitVec.or_append

/-- A bit-clear of stored bits of `CTRL` is one write with bit 0 clear (R108). -/
theorem clrBits_ctrl (m : BitVec 7) (s : State) :
    clrBits .ctrl (m ++ 0#1) s = regWrite .ctrl ((s.ctrl &&& ~~~m) ++ 0#1) s := by
  have hnot : ~~~(m ++ 0#1 : Byte) = ~~~m ++ ~~~0#1 := BitVec.not_append
  have hand : s.ctrlByte &&& ~~~(m ++ 0#1 : Byte) = (s.ctrl &&& ~~~m) ++ 0#1 :=
    (congrArg (s.ctrlByte &&& ·) hnot).trans BitVec.and_append
  exact congrArg (regWrite .ctrl · s) hand

/-- The write stores its bits and the latch follows the new clock-source bit (R101, R105). -/
theorem regWrite_ctrl {s : State} (hv : s.params.variant = .usi) (c : BitVec 7) :
    regWrite .ctrl (c ++ 0#1) s = .next { s.emit (.regW .ctrl (c ++ 0#1)) with ctrl := c }.relatch := by
  have hbit : (c ++ 0#1 : Byte).getLsbD 0 = false := BitVec.getLsbD_append
  have hstored : (c ++ 0#1 : Byte).extractLsb' 1 7 = c := BitVec.extractLsb'_append_eq_left
  simp only [regWrite, regExists, hv, writeEffect, writeCtrl, hbit, hstored]
  rfl

/-- The latch is what its invariant makes of it (R22). -/
theorem relatch_eq_latched (s : State) : s.relatch = { s with dol := s.latched s.sck s.cs0 s.dr } := by
  unfold State.relatch State.latched
  cases s.params.variant with
  | hwspi => rfl
  | usi => by_cases hk : s.sck = s.cs0 <;> simp [hk]

/-- The clock-source bit is all of `CTRL` that the latch depends on (R22). -/
theorem latchHolds_of_cs0 {s : State} (hl : s.LatchHolds) {c : BitVec 7} (hc : c.getLsbD 1 = s.ctrl.getLsbD 1) :
    { s with ctrl := c }.LatchHolds := by
  intro hv hk
  exact hl hv (hk.trans (by rw [cs0_eq_ctrl_bit, cs0_eq_ctrl_bit, hc]))

section
variable {s : State} {m : BitVec 7}

/-- With the clock-source bit kept, the write changes `CTRL` alone. -/
theorem regWrite_ctrl_of_cs0 (hv : s.params.variant = .usi) (hl : s.LatchHolds) {c : BitVec 7}
    (hc : c.getLsbD 1 = s.ctrl.getLsbD 1) :
    regWrite .ctrl (c ++ 0#1) s = .next { s.emit (.regW .ctrl (c ++ 0#1)) with ctrl := c } := by
  rw [regWrite_ctrl hv, relatch_of_latchHolds (latchHolds_of_cs0 (s := s.emit _) hl hc)]

theorem setBits_ctrl_of_cs0 (hv : s.params.variant = .usi) (hl : s.LatchHolds) (hm : m.getLsbD 1 = false) :
    setBits .ctrl (m ++ 0#1) s =
      .next { s.emit (.regW .ctrl ((s.ctrl ||| m) ++ 0#1)) with ctrl := s.ctrl ||| m } := by
  rw [setBits_ctrl, regWrite_ctrl_of_cs0 hv hl (by rw [BitVec.getLsbD_or, hm, Bool.or_false])]

theorem clrBits_ctrl_of_cs0 (hv : s.params.variant = .usi) (hl : s.LatchHolds) (hm : m.getLsbD 1 = false) :
    clrBits .ctrl (m ++ 0#1) s =
      .next { s.emit (.regW .ctrl ((s.ctrl &&& ~~~m) ++ 0#1)) with ctrl := s.ctrl &&& ~~~m } := by
  have hnot : (~~~m).getLsbD 1 = true := by rw [BitVec.getLsbD_not, hm]; rfl
  rw [clrBits_ctrl, regWrite_ctrl_of_cs0 hv hl (by rw [BitVec.getLsbD_and, hnot, Bool.and_true])]

end

/-! ### The lines of `BEGIN` -/

/-- `s` inside `BEGIN`: the point, the registers it writes, and what it and the interrupt agent record. -/
def State.inBegin (s : State) (p : Point) (c : BitVec 7) (d : Byte) (h : List Event) (y : Nat) : State :=
  { s with point := p, ctrl := c, ddr := d, history := h, yields := y }

section
variable {s : State} {p p' : Point} {c c' : BitVec 7} {d d' : Byte} {h : List Event} {y : Nat}

theorem inBegin_latchHolds (hl : s.LatchHolds) (hc : c.getLsbD 1 = s.ctrl.getLsbD 1) :
    (s.inBegin p c d h y).LatchHolds := latchHolds_of_cs0 (s := s.inBegin p s.ctrl d h y) hl hc

theorem microBegin_inBegin (hv : s.params.variant = .usi) :
    microBegin (s.inBegin p c d h y) = microBeginUsi (s.inBegin p c d h y) := by
  simp only [microBegin, State.inBegin, hv]

/-- Line 1 clears `WM1` and the two bits above it (R71). -/
theorem microBegin_line1 (hv : s.params.variant = .usi) (hl : (s.inBegin .idle c d h y).LatchHolds) :
    microBegin (s.inBegin .idle c d h y) =
      .next (s.inBegin (.line 2) (c &&& 0x0F) d (h ++ [.regW .ctrl ((c &&& 0x0F) ++ 0#1)]) y) :=
  (microBegin_inBegin hv).trans
    (andThen_of_next (clrBits_ctrl_of_cs0 (s := s.inBegin .idle c d h y) (m := 0x70#7) hv hl rfl))

/-- Line 2 sets `WM0`, `CS1` and `CLK` (R71). -/
theorem microBegin_line2 (hv : s.params.variant = .usi) (hl : (s.inBegin (.line 2) c d h y).LatchHolds) :
    microBegin (s.inBegin (.line 2) c d h y) =
      .next (s.inBegin (.line 3) (c ||| 0x0D) d (h ++ [.regW .ctrl ((c ||| 0x0D) ++ 0#1)]) y) :=
  (microBegin_inBegin hv).trans
    (andThen_of_next (setBits_ctrl_of_cs0 (s := s.inBegin (.line 2) c d h y) (m := 0x0D#7) hv hl rfl))

/-- Line 3 makes the clock pin an output (R71). -/
theorem microBegin_line3 (hv : s.params.variant = .usi) :
    microBegin (s.inBegin (.line 3) c d h y) =
      .next (s.inBegin (.line 4) c (d ||| bitMask s.params.pinSck)
        (h ++ [.regW .ddr (d ||| bitMask s.params.pinSck)]) y) :=
  (microBegin_inBegin hv).trans rfl

/-- Line 4 makes the data-out pin an output (R71). -/
theorem microBegin_line4 (hv : s.params.variant = .usi) :
    microBegin (s.inBegin (.line 4) c d h y) =
      .next (s.inBegin (.line 5) c (d ||| bitMask s.params.pinDo)
        (h ++ [.regW .ddr (d ||| bitMask s.params.pinDo)]) y) :=
  (microBegin_inBegin hv).trans rfl

/-- Line 5 makes the data-in pin an input, and completes the command (R71). -/
theorem microBegin_line5 (hv : s.params.variant = .usi) :
    microBegin (s.inBegin (.line 5) c d h y) =
      .next (s.inBegin (.line 5) c (d &&& ~~~bitMask s.params.pinDi)
        (h ++ [.regW .ddr (d &&& ~~~bitMask s.params.pinDi)]) y).complete :=
  (microBegin_inBegin hv).trans rfl

/-- One line of `BEGIN` that records `e`, with the `yield` after it. -/
theorem inBegin_continues {e : Event} (he : e ≠ .preempt) (hp : p' ≠ .idle)
    (hm : microBegin (s.inBegin p c d h y) = .next (s.inBegin p' c' d' (h ++ [e]) y)) :
    ∃ h' y', Continues microBegin 1 (s.inBegin p c d h y) (s.inBegin p' c' d' h' y') ∧
      withoutPreempts h' = withoutPreempts h ++ [e] := by
  obtain ⟨n, k, hy⟩ := passYield_eq (s.inBegin p' c' d' (h ++ [e]) y)
  exact ⟨_, _, hy ▸ Continues.single hm hp, by simp [State.inBegin, he]⟩

end

/-! ### `BEGIN` -/

/-- `CTRL` after `BEGIN` (R71). -/
def beginCtrl (c : BitVec 7) : BitVec 7 := c &&& 0x0F ||| 0x0D

/-- `DDR` after `BEGIN` (R71). -/
def beginDdr (p : Params) (d : Byte) : Byte := (d ||| bitMask p.pinSck ||| bitMask p.pinDo) &&& ~~~bitMask p.pinDi

/-- `s` after `BEGIN`, with the history and the yields it has led to. -/
def State.begun (s : State) (h : List Event) (y : Nat) : State :=
  { s with
    ctrl := beginCtrl s.ctrl, ddr := beginDdr s.params s.ddr, cp := s.cp + 1, locals := Locals.cleared
    history := h, yields := y }

/-- `BEGIN` is its five lines one after another (R71). -/
theorem execBegin_usi {s : State} (hp : s.point = .idle) (hv : s.params.variant = .usi) (hl : s.LatchHolds) :
    ∃ h y, exec .beginCmd s = .next (s.begun h y) ∧
      withoutPreempts h = withoutPreempts s.history ++
        [.regW .ctrl ((s.ctrl &&& 0x0F) ++ 0#1), .regW .ctrl (beginCtrl s.ctrl ++ 0#1),
          .regW .ddr (s.ddr ||| bitMask s.params.pinSck),
          .regW .ddr (s.ddr ||| bitMask s.params.pinSck ||| bitMask s.params.pinDo),
          .regW .ddr (beginDdr s.params s.ddr)] := by
  have hs : s.inBegin .idle s.ctrl s.ddr s.history s.yields = s := by rw [← hp]; rfl
  obtain ⟨h1, y1, r1, e1⟩ := inBegin_continues (by simp) (by simp) (microBegin_line1 hv (hs.symm ▸ hl))
  obtain ⟨h2, y2, r2, e2⟩ := inBegin_continues (by simp) (by simp)
    (microBegin_line2 (d := s.ddr) (h := h1) (y := y1) hv (inBegin_latchHolds hl (c := s.ctrl &&& 0x0F) (by simp)))
  obtain ⟨h3, y3, r3, e3⟩ := inBegin_continues (by simp) (by simp) (microBegin_line3 hv (h := h2))
  obtain ⟨h4, y4, r4, e4⟩ := inBegin_continues (by simp) (by simp) (microBegin_line4 hv (h := h3))
  have hrun : Continues microBegin 4 s _ := hs ▸ ((r1.trans r2).trans r3).trans r4
  refine ⟨h4 ++ [.regW .ddr (beginDdr s.params s.ddr)], y4, ?_, ?_⟩
  · calc exec .beginCmd s = runCommand 5 microBegin _ := hrun.runCommand_eq 4
      _ = _ := runCommand_done (microBegin_line5 hv) rfl
      _ = _ := by simp [State.begun, State.inBegin, State.complete, beginCtrl, beginDdr, hp]
  · simp [e4, e3, e2, e1, beginCtrl]

/-- `BEGIN` leaves the engine configured (R29). -/
theorem begun_configured {s : State} (hd : s.params.pinsDistinct = true) (h : List Event) (y : Nat) :
    (s.begun h y).configured = true := by
  simp only [Params.pinsDistinct, Bool.and_eq_true, bne_iff_ne] at hd
  obtain ⟨⟨⟨⟨⟨-, hsck⟩, -⟩, hdo⟩, -⟩, -⟩ := hd
  simp [State.configured, wm1_eq_ctrl_bit, wm0_eq_ctrl_bit, cs1_eq_ctrl_bit, clk_eq_ctrl_bit, State.begun, beginCtrl,
    beginDdr, bitOf_bitMask, hsck.symm, hdo.symm]

/-- Settles O31: line by line, with the agent's events left out of account. -/
theorem beginConfiguresEngine : Obligations.BeginConfiguresEngine := by
  intro s hp hv hd hl
  obtain ⟨h, y, hexec, hev⟩ := execBegin_usi hp hv hl
  exact ⟨h, y, hexec, hev, begun_configured hd h y⟩

theorem beginCtrl_beginCtrl (c : BitVec 7) : beginCtrl (beginCtrl c) = beginCtrl c := by decide +revert

theorem beginDdr_beginDdr (p : Params) (d : Byte) : beginDdr p (beginDdr p d) = beginDdr p d := by
  ext i
  simp only [beginDdr, BitVec.getElem_and, BitVec.getElem_or, BitVec.getElem_not]
  grind

theorem exec_latchHolds {i : Instr} {s t : State} (h : exec i s = .next t) (hl : s.LatchHolds) : t.LatchHolds :=
  exec_keeps (P := State.LatchHolds) h (fun _ _ hab => hab.latchHolds) hl

/-- Settles O32: the values `BEGIN` leaves are fixed points of what it writes, and it keeps the latch invariant. -/
theorem beginIsIdempotent : Obligations.BeginIsIdempotent := by
  rintro s t hv - ⟨hp, -, -⟩ hl ht
  have hlt := exec_latchHolds ht hl
  obtain ⟨h, y, hexec, -⟩ := execBegin_usi hp hv hl
  obtain rfl : s.begun h y = t := Host.Outcome.next.inj (hexec.symm.trans ht)
  obtain ⟨h', y', hexec', -⟩ := execBegin_usi (s := s.begun h y) hp hv hlt
  exact ⟨h', y', hexec'.trans (by simp [State.begun, beginCtrl_beginCtrl, beginDdr_beginDdr])⟩

/-! ### `SETMODE` and `END` -/

/-- `CTRL` after `SETMODE m`: the clock-source bit is 1 for `MODE1` alone (R15, R73). -/
def modeCtrl (m : DataMode) (c : BitVec 7) : BitVec 7 := if m = .mode1 then c ||| 0x02 else c &&& ~~~0x02#7

theorem getLsbD_modeCtrl (m : DataMode) (c : BitVec 7) : (modeCtrl m c).getLsbD 1 = decide (m = .mode1) := by
  by_cases hm : m = .mode1 <;> simp [modeCtrl, hm]

/-- `SETMODE` is one write of `CTRL` (R73). -/
theorem setModeUsi_idle {s : State} (hp : s.point = .idle) (m : DataMode) :
    setModeUsi m s =
      andThen (regWrite .ctrl (modeCtrl m s.ctrl ++ 0#1) { s with dataMode := m }) fun t => .next t.complete := by
  refine (single_idle hp).trans ?_
  cases m with
  | mode1 => exact congrArg (andThen · _) (setBits_ctrl 0x02#7 _)
  | mode0 | mode2 | mode3 => exact congrArg (andThen · _) (clrBits_ctrl 0x02#7 _)

theorem exec_setMode_usi {s : State} (hv : s.params.variant = .usi) (m : DataMode) :
    exec (.setMode m) s = setModeUsi m s := by
  simp only [exec, execSetMode, hv]

/-- Settles O33: the latch follows the clock-source bit of the write. -/
theorem setModeWritesClockSourceBit : Obligations.SetModeWritesClockSourceBit := by
  intro m s hp hv
  refine (exec_setMode_usi hv m).trans ((setModeUsi_idle hp m).trans ?_)
  rw [regWrite_ctrl (s := { s with dataMode := m }) hv, relatch_eq_latched, cs0_eq_ctrl_bit, getLsbD_modeCtrl]
  rfl

/-- Settles O34: both next states are the one of `SETMODE`, whose write is the same for both modes. -/
theorem modesNarrowToClockSource : Obligations.ModesNarrowToClockSource := by
  intro m n s t hv hm hn h
  have hp : s.point = .idle := (single_eq_next ((exec_setMode_usi hv m).symm.trans h)).1
  cases (setModeWritesClockSourceBit m s hp hv).symm.trans h
  simp [setModeWritesClockSourceBit n s hp hv, State.completed, hm, hn]

/-- `END` is one write of `CTRL`, which keeps the clock-source bit and so the latch (R22, R75). -/
theorem microEnd_usi {s : State} (hp : s.point = .idle) (hv : s.params.variant = .usi) (hl : s.LatchHolds) :
    microEnd s = .next (State.completed { s with ctrl := s.ctrl &&& 0x67 }
      [.regW .ctrl ((s.ctrl &&& 0x67) ++ 0#1)]) := by
  simp only [microEnd, hv, microEndUsi, single_idle hp]
  exact andThen_of_next (clrBits_ctrl_of_cs0 (m := 0x18#7) hv hl rfl)

/-- Settles O35: the one write of `END` leaves `WM0` clear, so the engine is not configured (R29, R76). -/
theorem endClearsWireMode : Obligations.EndClearsWireMode := by
  intro s hp hv hl
  refine ⟨(exec_eq_runCommand .endCmd s).trans (runCommand_done (microEnd_usi hp hv hl) rfl), ?_⟩
  simp [State.configured, wm0_eq_ctrl_bit]

end Sys2Proof.Machine
end

section
/-! Critical sections in the history (spec/41_transfer.md R93; spec/43_hwspi_variant.md R125; spec/60_exceptions.md
R134, R137, R138): the events that a step records, scanned for a `Preempt` inside a section. -/

namespace Sys2Proof.Machine

open Sys2Proof.Config

/-- A history is scanned part after part. -/
theorem sectionScan_append (o : Bool) (g h : List Event) :
    sectionScan o (g ++ h) = (sectionScan o g).bind (sectionScan · h) := by
  induction g generalizing o with
  | nil => rfl
  | cons e g ih =>
    cases e with
    | preempt => cases o <;> simp [sectionScan, ih]
    | _ => simp [sectionScan, ih]

/-- The interrupt agent's events lie outside every section where none is open. -/
theorem sectionScan_preempts (n : Nat) : sectionScan false (List.replicate n .preempt) = some false := by
  induction n with
  | zero => rfl
  | succ n ih => simpa [List.replicate_succ, sectionScan] using ih

/-- `t` is `s` with further events, which leave the section open or closed as it is in `t`, with no `Preempt` inside. -/
def Scans (s t : State) : Prop :=
  ∃ new, t.history = s.history ++ new ∧ sectionScan s.saved.isSome new = some t.saved.isSome

section
variable {s t u : State}

theorem Scans.refl (s : State) : Scans s s := ⟨[], by simp, rfl⟩

theorem Scans.trans (h : Scans s t) (g : Scans t u) : Scans s u := by
  obtain ⟨a, ha, hsa⟩ := h
  obtain ⟨b, hb, hsb⟩ := g
  exact ⟨a ++ b, by rw [hb, ha, List.append_assoc], by rw [sectionScan_append, hsa, Option.bind_some, hsb]⟩

theorem Scans.sectionsClean (h : Scans s t) (hs : s.SectionsClean) : t.SectionsClean := by
  obtain ⟨new, hn, hscan⟩ := h
  rw [State.SectionsClean, hn, sectionScan_append, hs, Option.bind_some, hscan]

/-- What keeps the history and the section keeps the scan. -/
theorem Scans.congr (h : Scans s t) (hh : u.history = t.history) (hs : u.saved = t.saved) : Scans s u := by
  rwa [Scans, hh, hs]

/-! ### What the operations record -/

/-- An event that opens and closes no section and is none of the agent's. -/
theorem emit_scans {e : Event} (he : ∀ o, sectionScan o [e] = some o) (s : State) : Scans s (s.emit e) :=
  ⟨[e], rfl, he _⟩

theorem passYield_scans (s : State) : Scans s s.passYield := by
  unfold State.passYield
  split
  · next h =>
    have hs : s.saved.isSome = false := by simp_all
    exact ⟨_, rfl, by rw [hs]; exact sectionScan_preempts _⟩
  · exact .refl s

theorem noteRead_scans (r : Reg) (s : State) : Scans s (s.noteRead r) :=
  ⟨_, noteRead_history r s, by simp [sectionScan]⟩

theorem strobe_scans (s : State) : Scans s s.strobe := by
  unfold State.strobe State.edge
  split
  · exact ((Scans.refl s).congr (by simp) (by simp)).trans (emit_scans (fun _ => rfl) _)
  · exact ((Scans.refl s).congr (by simp) (by simp)).trans (emit_scans (fun _ => rfl) _)

theorem regWrite_scans {r : Reg} {v : Byte} (h : regWrite r v s = .next t) : Scans s t := by
  obtain ⟨-, he⟩ := regWrite_eq_next h
  have hw : Scans s (s.emit (.regW r v)) := emit_scans (fun _ => rfl) s
  cases r with
  | ctrl =>
    rcases writeCtrl_eq_next he with ⟨-, rfl⟩ | ⟨-, -, rfl⟩
    · exact hw.congr (by simp) (by simp)
    · exact (hw.congr (by simp) (by simp)).trans (strobe_scans _)
  | port =>
    obtain ⟨-, rfl⟩ := writePort_eq_next he
    exact hw.congr (by simp) (by simp)
  | data =>
    cases he
    exact hw.congr (by simp) (by simp)
  | stat | ddr | sreg | hctrl =>
    cases he
    exact hw

theorem critEnter_scans (s : State) : Scans s s.critEnter := ⟨[.critEnter s.gie], rfl, rfl⟩

theorem critExit_scans (h : critExit s = .next t) : Scans s t := by
  obtain ⟨g, -, rfl⟩ := critExit_eq_next h
  exact ⟨[.critExit g], rfl, rfl⟩

/-! ### The shapes of a micro-operation -/

/-- An operation, and then the command's own bookkeeping, which records nothing. -/
theorem andThen_scans {o : Result} {g : State → State} (ho : ∀ u, o = .next u → Scans s u)
    (h : andThen o (fun u => .next (g u)) = .next t) (hh : ∀ u, (g u).history = u.history)
    (hs : ∀ u, (g u).saved = u.saved) : Scans s t := by
  obtain ⟨u, hu, hk⟩ := andThen_eq_next h
  cases hk
  exact (ho u hu).congr (hh u) (hs u)

theorem regWrite_goto_scans {r : Reg} {v : Byte} {p : Point}
    (h : andThen (regWrite r v s) (fun u => .next (u.goto p)) = .next t) : Scans s t :=
  andThen_scans (fun _ => regWrite_scans) h (fun _ => rfl) (fun _ => rfl)

theorem critExit_complete_scans (h : andThen (critExit s) (fun u => .next u.complete) = .next t) : Scans s t :=
  andThen_scans (fun _ => critExit_scans) h (fun _ => rfl) (fun _ => rfl)

/-- A register read whose value goes into a local. -/
theorem regRead_setLocals_scans {r : Reg} {l : Byte → State → Locals} {p : Point}
    (h : regRead r (fun v u => .next ((u.setLocals (l v u)).goto p)) s = .next t) : Scans s t := by
  obtain ⟨-, hk⟩ := regRead_eq_next h
  cases hk
  exact noteRead_scans r s

/-- A memory read whose value goes into a local. -/
theorem memRead_setLocals_scans {a : Addr} {l : Byte → State → Locals} {p : Point}
    (h : memRead a (fun v u => .next ((u.setLocals (l v u)).goto p)) s = .next t) : Scans s t := by
  obtain ⟨v, -, hk⟩ := memRead_eq_next h
  cases hk
  exact emit_scans (fun _ => rfl) s

theorem single_scans {f : State → Result} (hf : ∀ u, f s = .next u → Scans s u) (h : single f s = .next t) :
    Scans s t := by
  obtain ⟨-, u, hu, rfl⟩ := single_eq_next h
  exact hf u hu

/-! ### The micro-operations, command by command -/

theorem microBeginUsi_scans (h : microBeginUsi s = .next t) : Scans s t := by
  unfold microBeginUsi at h
  split at h
  · exact regWrite_goto_scans h
  · exact regWrite_goto_scans h
  · exact regWrite_goto_scans h
  · exact regWrite_goto_scans h
  · exact andThen_scans (fun _ => regWrite_scans) h (fun _ => rfl) (fun _ => rfl)
  · cases h
  · cases h

theorem microBeginHw_scans (h : microBeginHw s = .next t) : Scans s t := by
  unfold microBeginHw at h
  split at h
  · split at h
    · cases h
    · cases h
      exact critEnter_scans s
  · exact regWrite_goto_scans h
  · exact regWrite_goto_scans h
  · exact regWrite_goto_scans h
  · exact regWrite_goto_scans h
  · exact regWrite_goto_scans h
  · exact regWrite_goto_scans h
  · cases h
    exact .refl s
  · exact critExit_complete_scans h
  · cases h
  · cases h

theorem microEndHw_scans (h : microEndHw s = .next t) : Scans s t := by
  unfold microEndHw at h
  split at h
  · cases h
    exact critEnter_scans s
  · cases h
    exact .refl s
  · exact andThen_scans (fun _ => regWrite_scans) h (by simp) (by simp)
  · exact critExit_complete_scans h
  · cases h
  · cases h

theorem execSetMode_scans {m : DataMode} (h : execSetMode m s = .next t) : Scans s t := by
  unfold execSetMode at h
  split at h
  · refine single_scans (fun u hu => ?_) h
    have hw : Scans { s with dataMode := m } u := by
      split at hu <;> exact regWrite_scans hu
    exact hw
  · cases h

theorem clockByte_scans {call ret : Nat} {l : ByteLine} (h : clockByte call ret l s = .next t) : Scans s t := by
  rcases clockByte_eq_next h with ⟨-, u, hu, rfl⟩ | ⟨-, rfl⟩ | ⟨-, -, rfl⟩ | ⟨-, -, rfl⟩ | ⟨-, u, hu, rfl⟩ |
    ⟨-, u, hu, rfl⟩
  · exact (regWrite_scans hu).congr rfl rfl
  · exact critEnter_scans s
  · exact noteRead_scans .stat s
  · exact noteRead_scans .stat s
  · exact (regWrite_scans hu).congr rfl rfl
  · exact (critExit_scans hu).congr rfl rfl

/-- The results of the single transfers. -/
theorem setRet_complete_scans (v : Word) (s : State) : Scans s (s.setRet v).complete :=
  ⟨[.ret s.cp v], rfl, rfl⟩

theorem microXfer8_scans {v : Byte} (h : microXfer8 v s = .next t) : Scans s t := by
  unfold microXfer8 at h
  split at h
  · obtain ⟨-, -, hb⟩ := admitTransfer_eq_next h
    exact regWrite_goto_scans hb
  · exact clockByte_scans h
  · exact regRead_setLocals_scans h
  · cases h
    exact setRet_complete_scans _ s
  · cases h
  · cases h

theorem microXfer16_scans {w : Word} (h : microXfer16 w s = .next t) : Scans s t := by
  unfold microXfer16 at h
  split at h
  · obtain ⟨-, -, hb⟩ := admitTransfer_eq_next h
    exact regWrite_goto_scans hb
  · exact clockByte_scans h
  · exact regRead_setLocals_scans h
  · exact regWrite_goto_scans h
  · exact clockByte_scans h
  · exact regRead_setLocals_scans h
  · cases h
    exact setRet_complete_scans _ s
  · cases h
  · cases h

theorem microBuffer_scans {addr : Addr} {count : Word} (h : microBuffer addr count s = .next t) : Scans s t := by
  unfold microBuffer at h
  split at h
  · obtain ⟨-, -, ha⟩ := admitTransfer_eq_next h
    obtain ⟨-, hb⟩ := admitBuffer_eq_next ha
    exact memRead_setLocals_scans hb
  · exact andThen_scans (fun _ => regWrite_scans) h (fun _ => rfl) (fun _ => rfl)
  · exact memRead_setLocals_scans h
  · exact clockByte_scans h
  · exact regRead_setLocals_scans h
  · exact regWrite_goto_scans h
  · cases h
    exact emit_scans (fun _ => rfl) _
  · exact clockByte_scans h
  · exact regRead_setLocals_scans h
  · cases h
    exact emit_scans (fun _ => rfl) _
  · cases h
  · cases h

theorem microXferBuf_scans {addr : Addr} {count : Word} (h : microXferBuf addr count s = .next t) : Scans s t := by
  unfold microXferBuf at h
  split at h
  · unfold emptyTransfer at h
    split at h
    · cases h
    · refine single_scans (fun u hu => ?_) h
      cases hu
      exact .refl s
  · exact microBuffer_scans h

theorem execRdReg_scans {r : Reg} (h : execRdReg r s = .next t) : Scans s t := by
  refine single_scans (fun u hu => ?_) h
  obtain ⟨-, hk⟩ := regRead_eq_next hu
  cases hk
  exact (noteRead_scans r s).trans (setRet_complete_scans _ _)

theorem microGuarded_scans {f : State → State} (hf : (f s).history = s.history ∧ (f s).saved = s.saved)
    (h : microGuarded f s = .next t) : Scans s t := by
  unfold microGuarded at h
  split at h
  · cases h
    exact critEnter_scans s
  · cases h
    exact (Scans.refl s).congr hf.1 hf.2
  · exact critExit_complete_scans h
  · cases h
  · cases h

/-- Every micro-operation opens a section, closes one, or records events that have nothing to do with sections. -/
theorem microOp_scans {i : Instr} (h : microOp i s = .next t) : Scans s t := by
  cases i with
  | beginCmd =>
    simp only [microOp, microBegin] at h
    split at h
    · exact microBeginUsi_scans h
    · exact microBeginHw_scans h
  | endCmd =>
    simp only [microOp, microEnd] at h
    split at h
    · exact single_scans (fun _ => regWrite_scans) h
    · exact microEndHw_scans h
  | setMode m => exact execSetMode_scans h
  | xfer8 v => exact microXfer8_scans h
  | xfer16 w => exact microXfer16_scans h
  | xferBuf addr count => exact microXferBuf_scans h
  | rdReg r => exact execRdReg_scans h
  | wrReg r v => exact single_scans (fun _ => regWrite_scans) h
  | setBits r m =>
    simp only [microOp, exec, execSetBits] at h
    split at h
    · exact single_scans (fun _ => regWrite_scans) h
    · cases h
  | clrBits r m =>
    simp only [microOp, exec, execClrBits] at h
    split at h
    · exact single_scans (fun _ => regWrite_scans) h
    · cases h
  | useInt n =>
    simp only [microOp, microUseInt] at h
    split at h
    · cases h
    · exact microGuarded_scans ⟨by simp, by simp⟩ h
  | noUseInt n =>
    simp only [microOp, microNoUseInt] at h
    split at h
    · cases h
    · exact microGuarded_scans ⟨by simp, by simp⟩ h
  | attachInt => exact absurd h (undescribed_ne_next s t)
  | detachInt => exact absurd h (undescribed_ne_next s t)

end

/-- Settles O17: the agent's events fall where no section is open, and a micro-operation records none of them. -/
theorem noInterruptInsideSection : Obligations.NoInterruptInsideSection := by
  intro s t hs h
  obtain ⟨w, i, -, -, hm⟩ := step_eq_next h
  exact ((passYield_scans s).trans (microOp_scans hm)).sectionsClean hs

end Sys2Proof.Machine
end

section
/-! Where a micro-operation stops (spec/00_scope.md R8; spec/41_transfer.md R82, R85; R135, R140): a command refuses
at its start or not at all, and the model's own faults answer no state that meets the invariant. -/

namespace Sys2Proof.Machine

open Sys2Proof.Config

/-- The answer of a micro-operation made at the point `p` is none of the model's own faults, and a refusal only at a
command's start. -/
def Proper (p : Point) : Result → Prop
  | .next _ | .fault (.memNoValue _) => True
  | .fault .endOfRun | .fault .noCommand | .fault .strayPoint => False
  | .refused _ => p = .idle

section
variable {p : Point} {s t : State}

theorem proper_next {o : Result} (h : o = .next t) : Proper p o := by
  rw [h]
  trivial

/-- An operation that goes on, and the command's own bookkeeping. -/
theorem andThen_proper {o : Result} {g : State → State} (h : o = .next t) :
    Proper p (andThen o fun u => .next (g u)) := proper_next (andThen_of_next h)

/-- A register write stops, if it does, with a refusal. -/
theorem regWrite_next_or_refused (r : Reg) (v : Byte) (s : State) :
    (∃ t, regWrite r v s = .next t) ∨ ∃ e, regWrite r v s = .refused e := by
  unfold regWrite
  split
  · cases r with
    | ctrl =>
      simp only [writeEffect, writeCtrl, strobeOrRefuse]
      split
      · split
        · exact .inl ⟨_, rfl⟩
        · exact .inr ⟨_, rfl⟩
      · exact .inl ⟨_, rfl⟩
    | port =>
      simp only [writeEffect, writePort]
      split
      · exact .inr ⟨_, rfl⟩
      · exact .inl ⟨_, rfl⟩
    | stat | data | ddr | sreg | hctrl => exact .inl ⟨_, rfl⟩
  · exact .inr ⟨_, rfl⟩

/-- A register write as a command's first micro-operation. -/
theorem regWrite_proper_idle (r : Reg) (v : Byte) (s : State) (g : State → State) :
    Proper .idle (andThen (regWrite r v s) fun u => .next (g u)) := by
  rcases regWrite_next_or_refused r v s with ⟨t, h⟩ | ⟨e, h⟩
  · exact andThen_proper h
  · rw [h]
    rfl

/-- A register read answers a next state or is refused. -/
theorem regRead_proper_idle (r : Reg) (s : State) (g : Byte → State → State) (f : State → State) :
    Proper .idle (andThen (regRead r (fun v u => .next (g v u)) s) fun u => .next (f u)) := by
  unfold regRead
  split
  · trivial
  · rfl

theorem regRead_proper {r : Reg} (hr : regExists s.params.variant r = true) (g : Byte → State → State) :
    Proper p (regRead r (fun v u => .next (g v u)) s) := proper_next (if_pos hr)

theorem memRead_proper (a : Addr) (s : State) (g : Byte → State → State) :
    Proper p (memRead a (fun v u => .next (g v u)) s) := by
  unfold memRead
  split <;> trivial

theorem critExit_proper (hs : s.saved.isSome = true) (g : State → State) :
    Proper p (andThen (critExit s) fun u => .next (g u)) := by
  obtain ⟨b, hb⟩ := Option.isSome_iff_exists.mp hs
  exact andThen_proper (t := { s with saved := none, gie := b }.emit (.critExit b)) (by simp only [critExit, hb])

/-- A command that is one micro-operation, where it can be at its start only. -/
theorem single_proper {f : State → Result} (hp : s.point = .idle)
    (hf : Proper .idle (andThen (f s) fun u => .next u.complete)) : Proper s.point (single f s) := by
  rw [single_idle hp, hp]
  exact hf

/-- What the invariant gives at a point of the command in progress. -/
theorem Sequenced.hasPoint {i : Instr} (hs : Sequenced i s) :
    s.point = .idle ∨ i.hasPoint s.params.variant s.point = true := by
  refine or_iff_not_imp_left.mpr fun h => ?_
  have hi := hs.progress h
  simp only [Instr.inProgress, Bool.and_eq_true] at hi
  exact hi.1

/-- A section is open where the point lies in one. -/
theorem Sequenced.saved_isSome {i : Instr} {v : Variant} {q : Point} (hs : Sequenced i s) (hv : s.params.variant = v)
    (hq : s.point = q) (h : q.inSection v = true) : s.saved.isSome = true := by
  rw [hs.section_, hv, hq, h]

/-! ### The lifecycle and the interrupt lines -/

theorem microBeginUsi_proper (hv : s.params.variant = .usi) (hs : Sequenced .beginCmd s) :
    Proper s.point (microBeginUsi s) := by
  have hpoint := hs.hasPoint
  simp only [hv, Instr.hasPoint, List.contains_iff_mem, List.mem_cons, List.not_mem_nil, or_false] at hpoint
  rcases hpoint with hq | hq | hq | hq | hq <;> simp only [microBeginUsi, hq]
  · exact regWrite_proper_idle ..
  · exact andThen_proper ((setBits_ctrl 0x0D#7 s).trans (regWrite_ctrl hv _))
  · exact andThen_proper (setBits_ddr _ s)
  · exact andThen_proper (setBits_ddr _ s)
  · exact proper_next rfl

theorem microBeginHw_proper (hv : s.params.variant = .hwspi) (hs : Sequenced .beginCmd s) :
    Proper s.point (microBeginHw s) := by
  have hpoint := hs.hasPoint
  simp only [hv, Instr.hasPoint, List.contains_iff_mem, List.mem_cons, List.not_mem_nil, or_false] at hpoint
  rcases hpoint with hq | hq | hq | hq | hq | hq | hq | hq | hq <;> simp only [microBeginHw, hq]
  · split
    · rfl
    · trivial
  · exact andThen_proper (setBits_port_hwspi hv _)
  · exact andThen_proper (setBits_ddr _ s)
  · exact andThen_proper (setBits_hctrl hv _)
  · exact andThen_proper (setBits_hctrl hv _)
  · exact andThen_proper (setBits_ddr _ s)
  · exact andThen_proper (setBits_ddr _ s)
  · trivial
  · exact critExit_proper (hs.saved_isSome hv hq rfl) _

theorem microEndHw_proper (hv : s.params.variant = .hwspi) (hs : Sequenced .endCmd s) :
    Proper s.point (microEndHw s) := by
  have hpoint := hs.hasPoint
  simp only [hv, Instr.hasPoint, List.contains_iff_mem, List.mem_cons, List.not_mem_nil, or_false] at hpoint
  rcases hpoint with hq | hq | hq | hq <;> simp only [microEndHw, hq]
  · trivial
  · trivial
  · exact andThen_proper (o := clrBits .hctrl 0x40 s) (if_pos (by simp [regExists, hv]))
  · exact critExit_proper (hs.saved_isSome hv hq rfl) _

/-- `USEINT` and `NOUSEINT`. -/
theorem microGuarded_proper {i : Instr} (f : State → State) (hv : s.params.variant = .hwspi) (hs : Sequenced i s)
    (hi : i.hasPoint .hwspi s.point = [Point.line 2, .line 3].contains s.point) :
    Proper s.point (microGuarded f s) := by
  have hpoint := hs.hasPoint
  simp only [hv, hi, List.contains_iff_mem, List.mem_cons, List.not_mem_nil, or_false] at hpoint
  rcases hpoint with hq | hq | hq <;> simp only [microGuarded, hq]
  · trivial
  · trivial
  · exact critExit_proper (hs.saved_isSome hv hq rfl) _

/-! ### The transfers -/

/-- A strobe inside a transfer is never refused: the engine is configured (R29, R82). -/
theorem clockByte_proper {i : Instr} {call ret : Nat} {l : ByteLine} (hs : Sequenced i s)
    (hq : s.point = .clock call l) (hv : s.params.variant = .usi) (hc : s.configured = true) (hl : s.LatchHolds) :
    Proper s.point (clockByte call ret l s) := by
  cases l with
  | clear => exact andThen_proper (if_pos (by simp [regExists, hv]))
  | enter => exact proper_next rfl
  | poll =>
    have hr : regExists s.params.variant .stat = true := by simp [regExists, hv]
    simp only [clockByte, regRead, if_pos hr]
    split <;> trivial
  | strobe => exact andThen_proper (setBits_strobe hv (clkCfg_of_configured hc) hl)
  | exit => exact critExit_proper (hs.saved_isSome hv hq rfl) _

/-- A transfer's first micro-operation is refused or goes on to its first access. -/
theorem admitTransfer_proper_idle {f : State → Result} (hf : Proper .idle (f s)) :
    Proper .idle (admitTransfer f s) := by
  unfold admitTransfer
  split
  · rfl
  · exact hf

theorem microXfer8_proper {v : Byte} (hs : Sequenced (.xfer8 v) s) (hl : s.LatchHolds) :
    Proper s.point (microXfer8 v s) := by
  by_cases hp : s.point = .idle
  · simp only [microXfer8, hp]
    exact admitTransfer_proper_idle (regWrite_proper_idle ..)
  · have hi := hs.progress hp
    have hv := Instr.variant_of_inProgress rfl hi
    have hr : regExists s.params.variant .data = true := by simp [regExists, hv]
    simp only [Instr.inProgress, Bool.and_eq_true] at hi
    obtain ⟨hpoint, hc⟩ := hi
    unfold microXfer8
    split
    · contradiction
    · next hq => exact clockByte_proper hs hq hv hc hl
    · exact regRead_proper hr _
    · trivial
    · simp_all [Instr.hasPoint, Point.inCall]
    · simp_all [Instr.hasPoint, Point.inCall]

theorem microXfer16_proper {w : Word} (hs : Sequenced (.xfer16 w) s) (hl : s.LatchHolds) :
    Proper s.point (microXfer16 w s) := by
  by_cases hp : s.point = .idle
  · simp only [microXfer16, hp]
    exact admitTransfer_proper_idle (regWrite_proper_idle ..)
  · have hi := hs.progress hp
    have hv := Instr.variant_of_inProgress rfl hi
    have hr : regExists s.params.variant .data = true := by simp [regExists, hv]
    simp only [Instr.inProgress, Bool.and_eq_true] at hi
    obtain ⟨hpoint, hc⟩ := hi
    unfold microXfer16
    split
    · contradiction
    · next hq => exact clockByte_proper hs hq hv hc hl
    · exact regRead_proper hr _
    · exact andThen_proper (regWrite_data hv _)
    · next hq => exact clockByte_proper hs hq hv hc hl
    · exact regRead_proper hr _
    · trivial
    · simp_all [Instr.hasPoint, Point.inCall]
    · simp_all [Instr.hasPoint, Point.inCall]

theorem microBuffer_proper {addr : Addr} {count : Word} (hs : Sequenced (.xferBuf addr count) s) (hl : s.LatchHolds) :
    Proper s.point (microBuffer addr count s) := by
  by_cases hp : s.point = .idle
  · simp only [microBuffer, hp]
    refine admitTransfer_proper_idle ?_
    unfold admitBuffer
    split
    · exact memRead_proper ..
    · rfl
  · have hi := hs.progress hp
    have hv := Instr.variant_of_inProgress rfl hi
    have hr : regExists s.params.variant .data = true := by simp [regExists, hv]
    obtain ⟨hpoint, hc, -⟩ := inProgress_xferBuf_iff.mp hi
    unfold microBuffer
    split
    · contradiction
    · exact andThen_proper (regWrite_data hv _)
    · exact memRead_proper ..
    · next hq => exact clockByte_proper hs hq hv hc hl
    · exact regRead_proper hr _
    · exact andThen_proper (regWrite_data hv _)
    · trivial
    · next hq => exact clockByte_proper hs hq hv hc hl
    · exact regRead_proper hr _
    · trivial
    · simp_all [Instr.hasPoint, Point.inCall]
    · simp_all [Instr.hasPoint, Point.inCall]

/-- An empty buffer's command is never in progress (R90). -/
theorem microXferBuf_proper {addr : Addr} {count : Word} (hs : Sequenced (.xferBuf addr count) s)
    (hl : s.LatchHolds) : Proper s.point (microXferBuf addr count s) := by
  unfold microXferBuf
  split
  · next h0 =>
    have hp : s.point = .idle := by
      by_contra hne
      obtain ⟨-, -, hne0, -⟩ := inProgress_xferBuf_iff.mp (hs.progress hne)
      exact hne0 h0
    unfold emptyTransfer
    split
    · exact hp
    · exact single_proper hp trivial
  · exact microBuffer_proper hs hl

/-! ### The step -/

/-- No micro-operation of the command at `CP` stops at a stray point, and none of a command in progress is refused. -/
theorem microOp_proper {i : Instr} (hs : Sequenced i s) (hl : s.LatchHolds) : Proper s.point (microOp i s) := by
  have hone : (∀ v p, i.hasPoint v p = false) → s.point = .idle := fun h => by simpa [h] using hs.hasPoint
  cases i with
  | beginCmd =>
    simp only [microOp, microBegin]
    split
    · next hv => exact microBeginUsi_proper hv hs
    · next hv => exact microBeginHw_proper hv hs
  | endCmd =>
    simp only [microOp, microEnd]
    split
    · next hv =>
      exact single_proper (by simpa [hv, Instr.hasPoint] using hs.hasPoint) (regWrite_proper_idle ..)
    · next hv => exact microEndHw_proper hv hs
  | setMode m =>
    have hp := hone fun _ _ => rfl
    simp only [microOp, exec, execSetMode]
    split
    · rw [setModeUsi_idle hp, hp]
      exact regWrite_proper_idle ..
    · exact hp
  | xfer8 v => exact microXfer8_proper hs hl
  | xfer16 w => exact microXfer16_proper hs hl
  | xferBuf addr count => exact microXferBuf_proper hs hl
  | rdReg r => exact single_proper (hone fun _ _ => rfl) (regRead_proper_idle ..)
  | wrReg r v => exact single_proper (hone fun _ _ => rfl) (regWrite_proper_idle ..)
  | setBits r m =>
    have hp := hone fun _ _ => rfl
    simp only [microOp, exec, execSetBits]
    split
    · exact single_proper hp (regWrite_proper_idle ..)
    · exact hp
  | clrBits r m =>
    have hp := hone fun _ _ => rfl
    simp only [microOp, exec, execClrBits]
    split
    · exact single_proper hp (regWrite_proper_idle ..)
    · exact hp
  | useInt n =>
    simp only [microOp, microUseInt]
    split
    · next hv => simpa [Proper, hv, Instr.hasPoint] using hs.hasPoint
    · next hv => exact microGuarded_proper _ hv hs rfl
  | noUseInt n =>
    simp only [microOp, microNoUseInt]
    split
    · next hv => simpa [Proper, hv, Instr.hasPoint] using hs.hasPoint
    · next hv => exact microGuarded_proper _ hv hs rfl
  | attachInt | detachInt =>
    have hp := hone fun _ _ => rfl
    simp only [microOp, exec, execAttachInt, execDetachInt, undescribed]
    split <;> exact hp

/-- A command in progress has its word at `CP`, and before the end of the run there is one (R30, R156). -/
theorem State.Inv.fetch_of_not_runOver (hs : s.Inv) (hr : s.runOver = false) : ∃ w, s.fetch = some w := by
  by_contra hnone
  have hf : s.fetch = none := by simpa [Option.eq_none_iff_forall_ne_some] using hnone
  have hcp : s.cp = s.cmds.length := le_antisymm hs.pointer (List.getElem?_eq_none_iff.mp hf)
  have hp := hs.progress
  simp [State.runOver, hcp] at hr
  simp [State.progressFits, hf, hr] at hp

/-- A step is proper, or the run is over. -/
theorem State.Inv.step_proper (hs : s.Inv) : step s = .fault .endOfRun ∨ Proper s.point (step s) := by
  cases hr : s.runOver with
  | true => exact .inl (by simp [step, hr])
  | false =>
    obtain ⟨w, hf⟩ := hs.fetch_of_not_runOver hr
    cases hd : decode w with
    | error e =>
      have hp := hs.progress
      simp only [State.progressFits, hf, hd, Bool.or_false, beq_iff_eq] at hp
      exact .inr (by simp [step, hr, hf, hd, hp, Proper])
    | ok i =>
      have hseq := hs.passYield.sequenced (by simpa using hf) hd
      rw [step_of_decode hf hd]
      exact .inr (by simpa using microOp_proper hseq hs.passYield.latch)

end

/-- Settles O15: a step of a state that meets the invariant is proper. -/
theorem commandInProgressNeverRefused : Obligations.CommandInProgressNeverRefused := by
  intro s hs
  rcases hs.step_proper with h | h
  · simp [h]
  · refine ⟨fun he => ?_, fun he => ?_, fun hne r he => ?_⟩ <;> rw [he] at h
    · exact h
    · exact h
    · exact hne h

end Sys2Proof.Machine
end

section
/-! A strobe through `CTRL` in full (spec/10_state.md R19, R25, R29; spec/41_transfer.md R80, R82): its next state,
and the refusal where the clock is not configured. -/

namespace Sys2Proof.Machine

open Sys2Proof.Config

section
variable {s : State}

/-- The data-in level where it is written out: the latch where it is wired back and drives the line, else a draw
(R25). -/
theorem diLevel_eq (s : State) :
    s.diLevel = if s.params.wiring == .loopback && s.doDriven then s.dol else wireLevel s.wireDraws := by
  cases hw : s.params.wiring <;> cases hd : s.doDriven <;> simp [State.diLevel, State.doLine, hw, hd]

/-- A level is drawn unless the latch gives it (R25). -/
theorem passDraw_eq (s : State) :
    s.passDraw = { s with
      wireDraws := if s.params.wiring == .loopback && s.doDriven then s.wireDraws else s.wireDraws + 1 } := by
  cases hw : s.params.wiring <;> cases hd : s.doDriven <;> simp [State.passDraw, hw, hd]

/-- The count of a strobe, written out (R19). -/
theorem countStrobe_eq (s : State) :
    s.countStrobe = { s with
      cnt := if s.params.hwFaultNoOverflow then s.cnt else s.cnt + 1
      ovf := if s.params.hwFaultNoOverflow then s.ovf else s.ovf || s.cnt == 15#4 } := by
  cases hf : s.params.hwFaultNoOverflow <;> simp [State.countStrobe, hf]

theorem toggleSck_sck (s : State) : s.toggleSck.sck = !s.sck := by simp [State.sck, bitOf_bitMask]

/-- A strobe with a sampling edge (R80). -/
theorem strobe_eq_of_sampling (hk : s.sck = s.cs0) :
    let wired := s.params.wiring == .loopback && s.doDriven
    let din := if wired then s.dol else wireLevel s.wireDraws
    s.strobe = { s with
      port := s.port ^^^ bitMask s.params.pinSck
      cnt := if s.params.hwFaultNoOverflow then s.cnt else s.cnt + 1
      ovf := if s.params.hwFaultNoOverflow then s.ovf else s.ovf || s.cnt == 15#4
      dr := s.dr.extractLsb' 0 7 ++ BitVec.ofBool din
      wireDraws := if wired then s.wireDraws else s.wireDraws + 1
      history := s.history ++ [.edge (!s.sck) s.dol (some din)] } := by
  intro wired din
  have hsck : s.toggleSck.countStrobe.sck = !s.sck := by rw [countStrobe_eq]; exact toggleSck_sck s
  rw [strobe_of_sck_eq_cs0 hk, State.sampleEdge, diLevel_toggled, diLevel_eq, hsck, passDraw_eq, countStrobe_eq]
  rfl

/-- A strobe with a setup edge (R80). -/
theorem strobe_eq_of_setup (hk : s.sck ≠ s.cs0) :
    s.strobe = { s with
      port := s.port ^^^ bitMask s.params.pinSck
      cnt := if s.params.hwFaultNoOverflow then s.cnt else s.cnt + 1
      ovf := if s.params.hwFaultNoOverflow then s.ovf else s.ovf || s.cnt == 15#4
      dol := s.dr.getLsbD 7
      history := s.history ++ [.edge (!s.sck) (s.dr.getLsbD 7) none] } := by
  have hsck : s.toggleSck.countStrobe.sck = !s.sck := by rw [countStrobe_eq]; exact toggleSck_sck s
  rw [strobe_of_sck_ne_cs0 hk, State.setupEdge, hsck, countStrobe_eq]
  rfl

/-- A strobing write of `CTRL` where the setting it writes leaves the clock unconfigured (R82, R101). -/
theorem regWrite_ctrl_refused {v : Byte} (hv : s.params.variant = .usi) (h0 : v.getLsbD 0 = true)
    (hc : (v.getLsbD 3 && v.getLsbD 1 && bitOf s.ddr s.params.pinSck) = false) :
    regWrite .ctrl v s = .refused .clockNotConfigured := by
  have hcfg : { s.emit (.regW .ctrl v) with ctrl := v.extractLsb' 1 7 }.relatch.clkCfg = false := by
    simpa [State.clkCfg, cs1_eq_ctrl_bit, clk_eq_ctrl_bit] using hc
  rw [regWrite, if_pos (by simp [regExists, hv]), writeEffect, writeCtrl, if_pos h0, strobeOrRefuse, hcfg]
  rfl

end

/-- Settles O29: at the clock's idle level the strobe makes a sampling edge, and away from it a setup edge. -/
theorem strobeTogglesCountsAndShifts : Obligations.StrobeTogglesCountsAndShifts := by
  intro s hp hv hc hl level counted written wired din
  rw [exec_strobe hp hv hc hl]
  by_cases hk : s.sck = s.cs0
  · rw [if_pos (by simp [level, hk]), strobe_eq_of_sampling (s := s.emit _) hk]
    simp only [emit_history, List.append_assoc, List.singleton_append]
    rfl
  · rw [if_neg (by simpa [level, Bool.not_eq] using hk), strobe_eq_of_setup (s := s.emit _) hk]
    simp only [emit_history, List.append_assoc, List.singleton_append]
    rfl

/-- Settles O30: a bit-set writes the old setting and the mask, and a full write its value. -/
theorem strobeWithoutClockRefused : Obligations.StrobeWithoutClockRefused := by
  intro v s hp hv h0
  refine ⟨fun hc => ?_, fun hc => ?_⟩
  · have hor : (s.ctrlByte ||| v).getLsbD 0 = true := by rw [BitVec.getLsbD_or, h0, Bool.or_true]
    have hset : setBits .ctrl v s = .refused .clockNotConfigured :=
      regWrite_ctrl_refused hv hor (by rw [BitVec.getLsbD_or, BitVec.getLsbD_or]; exact hc)
    simp [exec, execSetBits, Reg.bitAccessible, single_idle hp, hset]
  · simp [exec, execWrReg, single_idle hp, regWrite_ctrl_refused hv h0 hc]

end Sys2Proof.Machine
end

section
/-! What a transfer leaves alone, from every state, and where it is refused (spec/20_memory.md R44;
spec/41_transfer.md R85 to R90; R135). -/

namespace Sys2Proof.Machine

open Sys2Proof.Config

/-- `t` has the setting of `s`: what no transfer writes. -/
structure SameEngine (s t : State) : Prop where
  params : t.params = s.params
  cmds : t.cmds = s.cmds
  ctrl : t.ctrl = s.ctrl
  ddr : t.ddr = s.ddr
  hctrl : t.hctrl = s.hctrl
  dataMode : t.dataMode = s.dataMode
  initialized : t.initialized = s.initialized
  interruptMode : t.interruptMode = s.interruptMode
  interruptMask : t.interruptMask = s.interruptMask

/-- What a micro-operation of a transfer that neither stores a byte nor returns a result leaves alone: the setting,
memory, `RET` and the counter of `XFERBUF`'s loop. -/
structure OnlyClocks (s t : State) : Prop extends SameEngine s t where
  mem : t.mem = s.mem
  ret : t.ret = s.ret
  counter : t.locals.i = s.locals.i

section
variable {s t u : State}

theorem SameEngine.refl (s : State) : SameEngine s s := by constructor <;> rfl

theorem SameEngine.trans (h : SameEngine s t) (g : SameEngine t u) : SameEngine s u :=
  ⟨g.params.trans h.params, g.cmds.trans h.cmds, g.ctrl.trans h.ctrl, g.ddr.trans h.ddr, g.hctrl.trans h.hctrl,
    g.dataMode.trans h.dataMode, g.initialized.trans h.initialized, g.interruptMode.trans h.interruptMode,
    g.interruptMask.trans h.interruptMask⟩

theorem SameEngine.configured (h : SameEngine s t) : t.configured = s.configured :=
  SameSetup.configured (s := s.setLocals t.locals) ⟨h.params, h.ctrl, h.ddr, rfl⟩

theorem OnlyClocks.refl (s : State) : OnlyClocks s s := ⟨.refl s, rfl, rfl, rfl⟩

theorem OnlyClocks.trans (h : OnlyClocks s t) (g : OnlyClocks t u) : OnlyClocks s u :=
  ⟨h.toSameEngine.trans g.toSameEngine, g.mem.trans h.mem, g.ret.trans h.ret, g.counter.trans h.counter⟩

theorem OnlyClocks.goto (h : OnlyClocks s t) (p : Point) : OnlyClocks s (t.goto p) :=
  h.trans ⟨by constructor <;> simp, rfl, rfl, rfl⟩

theorem setPhase_goto_onlyClocks (q : Phase) (p : Point) (s : State) : OnlyClocks s ((s.setPhase q).goto p) :=
  ⟨by constructor <;> simp, rfl, rfl, rfl⟩

theorem setLocals_goto_onlyClocks {l : Locals} (p : Point) (h : l.i = s.locals.i) :
    OnlyClocks s ((s.setLocals l).goto p) := ⟨by constructor <;> simp, rfl, rfl, h⟩

theorem critEnter_onlyClocks (s : State) : OnlyClocks s s.critEnter := ⟨by constructor <;> simp, rfl, rfl, rfl⟩

theorem passYield_sameEngine (s : State) : SameEngine s s.passYield := by constructor <;> simp

/-! ### What the operations of a transfer keep -/

theorem noteRead_onlyClocks (r : Reg) (s : State) : OnlyClocks s (s.noteRead r) :=
  ⟨by constructor <;> simp, by simp, by simp, by simp⟩

theorem regWrite_onlyClocks {r : Reg} {v : Byte} (h : regWrite r v s = .next t) (hc : t.ctrl = s.ctrl) (hd : r ≠ .ddr)
    (hh : r ≠ .hctrl) : OnlyClocks s t :=
  have f := regWrite_frame h
  have w := regWrite_writesOnly h
  ⟨⟨f.params, f.cmds, hc, w.ddr hd, w.hctrl hh, f.dataMode, f.initialized, f.interruptMode, f.interruptMask⟩, f.mem,
    f.ret, congrArg _ f.locals⟩

theorem regWrite_data_onlyClocks {v : Byte} (h : regWrite .data v s = .next t) : OnlyClocks s t :=
  regWrite_onlyClocks h ((regWrite_writesOnly h).ctrl (by simp)) (by simp) (by simp)

theorem critExit_onlyClocks (h : critExit s = .next t) : OnlyClocks s t := by
  obtain ⟨g, -, rfl⟩ := critExit_eq_next h
  exact ⟨by constructor <;> simp, rfl, rfl, rfl⟩

theorem clockByte_onlyClocks {call ret : Nat} {l : ByteLine} (h : clockByte call ret l s = .next t) :
    OnlyClocks s t := by
  have hr := noteRead_onlyClocks .stat s
  rcases clockByte_eq_next h with ⟨-, u, hu, rfl⟩ | ⟨-, rfl⟩ | ⟨-, -, rfl⟩ | ⟨-, -, rfl⟩ | ⟨-, u, hu, rfl⟩ |
    ⟨-, u, hu, rfl⟩
  · exact (regWrite_onlyClocks hu ((regWrite_writesOnly hu).ctrl (by simp)) (by simp) (by simp)).goto _
  · exact (critEnter_onlyClocks s).trans (setPhase_goto_onlyClocks _ _ _)
  · exact hr.trans (setPhase_goto_onlyClocks _ _ _)
  · exact hr.goto _
  · exact (regWrite_onlyClocks hu (setBits_strobe_ctrl hu) (by simp) (by simp)).goto _
  · exact (critExit_onlyClocks hu).trans (setPhase_goto_onlyClocks _ _ u)

theorem regWrite_data_goto_onlyClocks {v : Byte} {p : Point}
    (h : andThen (regWrite .data v s) (fun u => .next (u.goto p)) = .next t) : OnlyClocks s t := by
  obtain ⟨u, hu, hk⟩ := andThen_eq_next h
  cases hk
  exact (regWrite_data_onlyClocks hu).goto p

/-- A register read whose value goes into a local other than the loop's counter. -/
theorem regRead_setLocals_onlyClocks {r : Reg} {l : Byte → State → Locals} {p : Point}
    (h : regRead r (fun v u => .next ((u.setLocals (l v u)).goto p)) s = .next t)
    (hl : ∀ v u, (l v u).i = u.locals.i) : OnlyClocks s t := by
  obtain ⟨-, hk⟩ := regRead_eq_next h
  cases hk
  exact (noteRead_onlyClocks r s).trans (setLocals_goto_onlyClocks p (hl _ _))

/-- A memory read whose value goes into a local other than the loop's counter. -/
theorem memRead_setLocals_onlyClocks {a : Addr} {l : Byte → State → Locals} {p : Point}
    (h : memRead a (fun v u => .next ((u.setLocals (l v u)).goto p)) s = .next t)
    (hl : ∀ v u, (l v u).i = u.locals.i) : OnlyClocks s t := by
  obtain ⟨v, -, hk⟩ := memRead_eq_next h
  cases hk
  exact ⟨by constructor <;> simp, rfl, rfl, hl _ _⟩

/-! ### The micro-operations of the transfers -/

/-- What a single transfer keeps at every micro-operation but its last. -/
theorem OnlyClocks.engine_mem (h : OnlyClocks s t) : SameEngine s t ∧ t.mem = s.mem := ⟨h.toSameEngine, h.mem⟩

theorem setRet_complete_engine_mem (v : Word) (s : State) :
    SameEngine s (s.setRet v).complete ∧ (s.setRet v).complete.mem = s.mem := ⟨by constructor <;> simp, rfl⟩

theorem microXfer8_frame {v : Byte} (h : microXfer8 v s = .next t) : SameEngine s t ∧ t.mem = s.mem := by
  unfold microXfer8 at h
  split at h
  · obtain ⟨-, -, hb⟩ := admitTransfer_eq_next h
    exact (regWrite_data_goto_onlyClocks hb).engine_mem
  · exact (clockByte_onlyClocks h).engine_mem
  · exact (regRead_setLocals_onlyClocks h fun _ _ => rfl).engine_mem
  · cases h
    exact setRet_complete_engine_mem _ s
  · cases h
  · cases h

theorem microXfer16_frame {w : Word} (h : microXfer16 w s = .next t) : SameEngine s t ∧ t.mem = s.mem := by
  unfold microXfer16 at h
  split at h
  · obtain ⟨-, -, hb⟩ := admitTransfer_eq_next h
    exact (regWrite_data_goto_onlyClocks hb).engine_mem
  · exact (clockByte_onlyClocks h).engine_mem
  · exact (regRead_setLocals_onlyClocks h fun _ _ => rfl).engine_mem
  · exact (regWrite_data_goto_onlyClocks h).engine_mem
  · exact (clockByte_onlyClocks h).engine_mem
  · exact (regRead_setLocals_onlyClocks h fun _ _ => rfl).engine_mem
  · cases h
    exact setRet_complete_engine_mem _ s
  · cases h
  · cases h

/-- The byte of memory that `XFERBUF` stores to at the point of `s` (lines 10 and 14 of R89). -/
inductive StoresAt (addr : Addr) (count : Word) (s : State) : Addr → Prop
  | inLoop (hp : s.point = .line 10) : StoresAt addr count s (addr + s.locals.i)
  | last (hp : s.point = .line 14) : StoresAt addr count s (addr + (count - 1))

/-- What a micro-operation of `XFERBUF` with a nonempty buffer does beside the clocking (R44, R89): it starts only
where the buffer is admitted, is in the loop's body only by the loop's head, and stores to memory only at its two
lines. -/
structure BufferStep (addr : Addr) (count : Word) (s t : State) : Prop extends SameEngine s t where
  ret : t.ret = s.ret
  admitted : s.point = .idle → addr.toNat + count.toNat ≤ 2 ^ 16
  loop : t.point.inLoop = true →
    (s.point.inLoop = true ∧ t.locals.i = s.locals.i) ∨ t.point = bufferHead count t.locals.i
  mem : t.mem = s.mem ∨ ∃ a v, StoresAt addr count s a ∧ t.mem = memSet s.mem a.toNat v

section
variable {addr : Addr} {count : Word}

/-- A micro-operation that only clocks goes on in the loop's body if it was there. -/
theorem OnlyClocks.bufferStep (h : OnlyClocks s t) (hp : s.point = .idle → addr.toNat + count.toNat ≤ 2 ^ 16)
    (hl : t.point.inLoop = true → s.point.inLoop = true) : BufferStep addr count s t :=
  ⟨h.toSameEngine, h.ret, hp, fun ht => .inl ⟨hl ht, h.counter⟩, .inl h.mem⟩

theorem clockByte_point {call ret : Nat} {l : ByteLine} (h : clockByte call ret l s = .next t) :
    (∃ l', t.point = .clock call l') ∨ t.point = .line ret := by
  rcases clockByte_eq_next h with ⟨-, u, -, rfl⟩ | ⟨-, rfl⟩ | ⟨-, -, rfl⟩ | ⟨-, -, rfl⟩ | ⟨-, u, -, rfl⟩ |
    ⟨-, u, -, rfl⟩ <;> simp

theorem regRead_setLocals_point {r : Reg} {l : Byte → State → Locals} {p : Point}
    (h : regRead r (fun v u => .next ((u.setLocals (l v u)).goto p)) s = .next t) : t.point = p := by
  obtain ⟨-, hk⟩ := regRead_eq_next h
  cases hk
  rfl

theorem memRead_setLocals_point {a : Addr} {l : Byte → State → Locals} {p : Point}
    (h : memRead a (fun v u => .next ((u.setLocals (l v u)).goto p)) s = .next t) : t.point = p := by
  obtain ⟨v, -, hk⟩ := memRead_eq_next h
  cases hk
  rfl

theorem microBuffer_step (h : microBuffer addr count s = .next t) : BufferStep addr count s t := by
  unfold microBuffer at h
  split at h
  · obtain ⟨-, -, ha⟩ := admitTransfer_eq_next h
    obtain ⟨hb, hm⟩ := admitBuffer_eq_next ha
    exact (memRead_setLocals_onlyClocks hm fun _ _ => rfl).bufferStep (fun _ => hb)
      (by simp [memRead_setLocals_point hm, Point.inLoop])
  · next hq =>
    obtain ⟨u, hu, hk⟩ := andThen_eq_next h
    cases hk
    have hc := regWrite_data_onlyClocks hu
    exact ⟨hc.toSameEngine.trans (by constructor <;> simp), hc.ret, by simp [hq], fun _ => .inr rfl, .inl hc.mem⟩
  · next hq =>
    exact (memRead_setLocals_onlyClocks h fun _ _ => rfl).bufferStep (by simp [hq]) (by simp [hq, Point.inLoop])
  · next hq => exact (clockByte_onlyClocks h).bufferStep (by simp [hq]) (by simp [hq, Point.inLoop])
  · next hq =>
    exact (regRead_setLocals_onlyClocks h fun _ _ => rfl).bufferStep (by simp [hq]) (by simp [hq, Point.inLoop])
  · next hq => exact (regWrite_data_goto_onlyClocks h).bufferStep (by simp [hq]) (by simp [hq, Point.inLoop])
  · next hq =>
    cases h
    exact ⟨by constructor <;> simp, rfl, by simp [hq], fun _ => .inr rfl, .inr ⟨_, _, .inLoop hq, rfl⟩⟩
  · next hq =>
    refine (clockByte_onlyClocks h).bufferStep (by simp [hq]) ?_
    rcases clockByte_point h with ⟨l', hp⟩ | hp <;> simp [hp, Point.inLoop]
  · next hq =>
    exact (regRead_setLocals_onlyClocks h fun _ _ => rfl).bufferStep (by simp [hq])
      (by simp [regRead_setLocals_point h, Point.inLoop])
  · next hq =>
    cases h
    exact ⟨by constructor <;> simp, rfl, by simp [hq], by simp [Point.inLoop], .inr ⟨_, _, .last hq, rfl⟩⟩
  · cases h
  · cases h

/-- A command in progress has been admitted and is within the bounds of its loop (R44, R89). -/
def WithinBuffer (addr : Addr) (count : Word) (s : State) : Prop :=
  s.point ≠ .idle →
    addr.toNat + count.toNat ≤ 2 ^ 16 ∧ (s.point.inLoop = true → s.locals.i.toNat + 1 < count.toNat)

theorem lt_of_bufferHead_inLoop {i : BitVec 16} (h : (bufferHead count i).inLoop = true) :
    i.toNat + 1 < count.toNat := by
  unfold bufferHead at h
  split at h
  · assumption
  · simp [Point.inLoop] at h

theorem BufferStep.withinBuffer (h : BufferStep addr count s t) (hs : WithinBuffer addr count s) :
    WithinBuffer addr count t := by
  intro _
  by_cases hp : s.point = .idle
  · refine ⟨h.admitted hp, fun hl => ?_⟩
    rcases h.loop hl with ⟨hin, -⟩ | hhead
    · simp [hp, Point.inLoop] at hin
    · exact lt_of_bufferHead_inLoop (hhead ▸ hl)
  · obtain ⟨hb, hi⟩ := hs hp
    refine ⟨hb, fun hl => ?_⟩
    rcases h.loop hl with ⟨hin, hcount⟩ | hhead
    · rw [hcount]
      exact hi hin
    · exact lt_of_bufferHead_inLoop (hhead ▸ hl)

/-- Every store of `XFERBUF` lies inside its buffer. -/
theorem StoresAt.mem_buffer {a : Addr} (h : StoresAt addr count s a) (h0 : count ≠ 0)
    (hs : WithinBuffer addr count s) : addr.toNat ≤ a.toNat ∧ a.toNat < addr.toNat + count.toNat := by
  have hpos : 0 < count.toNat := Nat.pos_of_ne_zero fun hc => h0 (BitVec.eq_of_toNat_eq hc)
  cases h with
  | inLoop hp =>
    obtain ⟨hb, hi⟩ := hs (by simp [hp])
    have hlt := hi (by simp [hp, Point.inLoop])
    rw [BitVec.toNat_add, Nat.mod_eq_of_lt (by omega)]
    omega
  | last hp =>
    obtain ⟨hb, -⟩ := hs (by simp [hp])
    have hlast : (count - 1).toNat = count.toNat - 1 := by bv_omega
    rw [BitVec.toNat_add, hlast, Nat.mod_eq_of_lt (by omega)]
    omega

theorem BufferStep.memGet_outside (h : BufferStep addr count s t) (h0 : count ≠ 0) (hs : WithinBuffer addr count s)
    {a : Nat} (ha : a < addr.toNat ∨ addr.toNat + count.toNat ≤ a) : memGet t.mem a = memGet s.mem a := by
  rcases h.mem with hm | ⟨b, v, hb, hm⟩
  · rw [hm]
  · have hin := hb.mem_buffer h0 hs
    rw [hm, memGet_memSet_other _ _ _ _ (by omega)]

end

/-- `XFERBUF` with an empty buffer advances `CP` (R90). -/
theorem emptyTransfer_eq_next (h : emptyTransfer s = .next t) : t = s.complete := by
  unfold emptyTransfer at h
  split at h
  · cases h
  · obtain ⟨-, u, hu, rfl⟩ := single_eq_next h
    cases hu
    rfl

theorem microXferBuf_frame {addr : Addr} {count : Word} (h : microXferBuf addr count s = .next t) :
    SameEngine s t ∧ t.ret = s.ret := by
  unfold microXferBuf at h
  split at h
  · rw [emptyTransfer_eq_next h]
    exact ⟨by constructor <;> simp, rfl⟩
  · have hb := microBuffer_step h
    exact ⟨hb.toSameEngine, hb.ret⟩

/-- A transfer's micro-operations write no setting. -/
theorem microOp_sameEngine {i : Instr} (hi : i.isTransfer = true) (h : microOp i s = .next t) : SameEngine s t := by
  cases i with
  | xfer8 v => exact (microXfer8_frame h).1
  | xfer16 w => exact (microXfer16_frame h).1
  | xferBuf addr count => exact (microXferBuf_frame h).1
  | _ => cases hi

/-! ### The transfers -/

theorem exec_sameEngine {i : Instr} (hi : i.isTransfer = true) (h : exec i s = .next t) : SameEngine s t := by
  rw [exec_eq_runCommand] at h
  exact runCommand_rel SameEngine.refl (fun a b c hab hbc => hab.trans (microOp_sameEngine hi hbc))
    (fun a b hab => hab.trans (passYield_sameEngine b)) h

/-- The single transfers leave memory alone. -/
theorem exec_single_mem {i : Instr} (hi : (∃ v, i = .xfer8 v) ∨ ∃ w, i = .xfer16 w) (h : exec i s = .next t) :
    t.mem = s.mem := by
  rw [exec_eq_runCommand] at h
  refine runCommand_keeps (P := fun a => a.mem = s.mem) (fun a b ha hab => ?_) (fun a ha => by simpa using ha) _ s t
    rfl h
  rcases hi with ⟨v, rfl⟩ | ⟨w, rfl⟩
  · exact (microXfer8_frame hab).2.trans ha
  · exact (microXfer16_frame hab).2.trans ha

theorem exec_xferBuf_ret {addr : Addr} {count : Word} (h : exec (.xferBuf addr count) s = .next t) : t.ret = s.ret := by
  rw [exec_eq_runCommand] at h
  exact runCommand_keeps (P := fun a => a.ret = s.ret) (fun a b ha hab => (microXferBuf_frame hab).2.trans ha)
    (fun a ha => by simpa using ha) _ s t rfl h

theorem exec_xferBuf_memGet {addr : Addr} {count : Word} (hp : s.point = .idle)
    (h : exec (.xferBuf addr count) s = .next t) {a : Nat} (ha : a < addr.toNat ∨ addr.toNat + count.toNat ≤ a) :
    memGet t.mem a = memGet s.mem a := by
  have hstart : WithinBuffer addr count s := fun hne => absurd hp hne
  rw [exec_eq_runCommand] at h
  refine (runCommand_keeps (P := fun b => WithinBuffer addr count b ∧ memGet b.mem a = memGet s.mem a)
    (fun b c hb hbc => ?_) (fun b hb => by simpa [WithinBuffer] using hb) _ s t ⟨hstart, rfl⟩ h).2
  obtain ⟨hw, hm⟩ := hb
  simp only [microOp, microXferBuf] at hbc
  split at hbc
  · rw [emptyTransfer_eq_next hbc]
    exact ⟨fun hne => absurd rfl hne, hm⟩
  · next h0 =>
    have hstep := microBuffer_step hbc
    exact ⟨hstep.withinBuffer hw, (hstep.memGet_outside h0 hw ha).trans hm⟩

/-! ### Refusals -/

/-- A command whose first micro-operation is refused is refused. -/
theorem exec_refused {i : Instr} {r : Refusal} (h : microOp i s = .refused r) : exec i s = .refused r := by
  obtain ⟨n, hn⟩ := Nat.exists_eq_succ_of_ne_zero (microCount_pos i).ne'
  rw [exec_eq_runCommand, hn, runCommand_succ, h, andThen_refused]

theorem admitTransfer_of_refusal {f : State → Result} {r : Refusal} (h : transferRefusal s = some r) :
    admitTransfer f s = .refused r := by
  simp only [admitTransfer, h]

theorem admitTransfer_of_configured {f : State → Result} (hv : s.params.variant = .usi) (hc : s.configured = true) :
    admitTransfer f s = f s := by
  simp only [admitTransfer, transferRefusal, hv, hc, if_true]

/-- A transfer of at least one byte is refused as its admission says (R85). -/
theorem microOp_transferRefusal {i : Instr} {r : Refusal} (hi : i.isTransfer = true) (h0 : ∀ a, i ≠ .xferBuf a 0)
    (hp : s.point = .idle) (hr : transferRefusal s = some r) : microOp i s = .refused r := by
  cases i with
  | xfer8 v => simp [microOp, microXfer8, hp, admitTransfer_of_refusal hr]
  | xfer16 w => simp [microOp, microXfer16, hp, admitTransfer_of_refusal hr]
  | xferBuf addr count =>
    have hcount : count ≠ 0 := fun hc => h0 addr (hc ▸ rfl)
    simp [microOp, microXferBuf_of_pos hcount, microBuffer, hp, admitTransfer_of_refusal hr]
  | _ => cases hi

theorem microOp_hwspi {i : Instr} (hi : i.isTransfer = true) (hv : s.params.variant = .hwspi) (hp : s.point = .idle) :
    microOp i s = .refused .noDataPathInSource := by
  by_cases h0 : ∃ a, i = .xferBuf a 0
  · obtain ⟨a, rfl⟩ := h0
    simp [microOp, microXferBuf, emptyTransfer, hv]
  · exact microOp_transferRefusal hi (fun a ha => h0 ⟨a, ha⟩) hp (by simp [transferRefusal, hv])

theorem microXferBuf_wraps {addr : Addr} {count : Word} (hv : s.params.variant = .usi) (hp : s.point = .idle)
    (hc : s.configured = true) (h0 : count ≠ 0) (hw : 2 ^ 16 < addr.toNat + count.toNat) :
    microXferBuf addr count s = .refused .bufferWraps := by
  simp only [microXferBuf_of_pos h0, microBuffer, hp]
  exact (admitTransfer_of_configured hv hc).trans (if_neg (by omega))

end

/-- Settles O46: every micro-operation keeps the setting, and `XFERBUF` stores inside its buffer alone. -/
theorem transferFrame : Obligations.TransferFrame := by
  intro i s t hi h
  obtain ⟨hparams, hcmds, hctrl, hddr, hhctrl, hmode, hinit, himode, himask⟩ := exec_sameEngine hi h
  refine ⟨⟨hctrl, hddr, hhctrl, hmode, hinit, himode, himask, hparams, hcmds⟩, fun n hn => ?_, ?_, fun hne => ?_⟩
  · exact exec_portBit h (by simp [transfer_writes hi]) (by simpa using hn.symm)
  · rintro addr count rfl
    exact ⟨exec_xferBuf_ret h, fun hp a ha => exec_xferBuf_memGet hp h ha⟩
  · refine exec_single_mem ?_ h
    cases i with
    | xfer8 v => exact .inl ⟨v, rfl⟩
    | xfer16 w => exact .inr ⟨w, rfl⟩
    | xferBuf addr count => exact absurd rfl (hne addr count)
    | _ => cases hi

/-- Settles O44: the admission is the first thing a transfer asks, and the setting it rests on is never written. -/
theorem transferAdmission : Obligations.TransferAdmission := by
  intro i s hi
  refine ⟨fun hv hp => exec_refused (microOp_hwspi hi hv hp), fun hv hp hc h0 => ?_, ?_,
    fun t h => (exec_sameEngine hi h).configured⟩
  · exact exec_refused (microOp_transferRefusal hi h0 hp (by simp [transferRefusal, hv, hc]))
  · rintro hv hp hc addr count rfl h0 hw
    exact exec_refused (microXferBuf_wraps hv hp hc h0 hw)

/-- Settles O39: with no byte to exchange the command is its completion. -/
theorem emptyBufferIsNoOp : Obligations.EmptyBufferIsNoOp := by
  intro addr s hp hv
  have hmicro : microXferBuf addr 0 s = .next s.complete := by
    simp [microXferBuf, emptyTransfer, hv, single_idle hp]
  calc exec (.xferBuf addr 0) s = runCommand 1 (microXferBuf addr 0) s := rfl
    _ = .next s.complete := (runCommand_one _ s).trans hmicro
    _ = .next { s with cp := s.cp + 1, locals := Locals.cleared } := by rw [State.complete, ← hp]

end Sys2Proof.Machine
end

section
/-! What the history of a byte shows (spec/10_state.md R33; spec/41_transfer.md R80, R83, R86): the events of its
clocking, looked at edge by edge, poll by poll and level by level. -/

namespace Sys2Proof.Machine

open Sys2Proof.Config

/-! ### The events of the clocking -/

/-- The events that `ClockByte()` records: its polls and its writes, the edges, and the entry and exit of its section
(R83). -/
def Event.ofClocking : Event → Bool
  | .regR .stat _ | .regW .stat _ | .regW .ctrl _ | .edge _ _ _ | .critEnter _ | .critExit _ => true
  | .regR _ _ | .regW _ _ | .memR _ _ | .memW _ _ | .preempt | .ret _ _ => false

/-- The events of the clocking in a history, in order. -/
def clockingOf (h : List Event) : List Event := h.filter Event.ofClocking

@[simp] theorem clockingOf_append (g h : List Event) : clockingOf (g ++ h) = clockingOf g ++ clockingOf h :=
  List.filter_append ..

/-- The interrupt agent clocks nothing. -/
theorem clockingOf_withoutPreempts (h : List Event) : clockingOf (withoutPreempts h) = clockingOf h := by
  rw [clockingOf, clockingOf, withoutPreempts, List.filter_filter]
  congr 1
  funext e
  cases e <;> simp [Event.ofClocking]

/-- What is selected of a history among the events of the clocking can be selected from these alone. -/
theorem filter_clockingOf {p : Event → Bool} (hp : ∀ e, p e = true → e.ofClocking = true) (h : List Event) :
    (clockingOf h).filter p = h.filter p := by
  rw [clockingOf, List.filter_filter]
  congr 1
  funext e
  by_cases he : p e = true
  · simp [he, hp e he]
  · simp [he]

theorem filterMap_clockingOf {α : Type} {f : Event → Option α} (hf : ∀ e, (f e).isSome = true → e.ofClocking = true)
    (h : List Event) : (clockingOf h).filterMap f = h.filterMap f := by
  rw [clockingOf, List.filterMap_filter]
  congr 1
  funext e
  by_cases he : e.ofClocking = true
  · simp [he]
  · have hnone : f e = none := by
      by_contra hne
      exact he (hf e (Option.isSome_iff_ne_none.mpr hne))
    simp [he, hnone]

theorem edgesOf_clockingOf (h : List Event) : edgesOf (clockingOf h) = edgesOf h :=
  filter_clockingOf (fun e => by cases e <;> simp [Event.ofClocking]) h

theorem pollsOf_clockingOf (h : List Event) : pollsOf (clockingOf h) = pollsOf h := by
  refine filter_clockingOf (fun e => ?_) h
  cases e with
  | regR r _ => cases r <;> simp [Event.ofClocking]
  | _ => simp

theorem sectionEventsOf_clockingOf (h : List Event) : sectionEventsOf (clockingOf h) = sectionEventsOf h :=
  filter_clockingOf (fun e => by cases e <;> simp [Event.ofClocking]) h

theorem sentLevels_clockingOf (h : List Event) : sentLevels (clockingOf h) = sentLevels h :=
  filterMap_clockingOf (fun e => by cases e <;> simp [Event.ofClocking]) h

theorem sampledLevels_clockingOf (h : List Event) : sampledLevels (clockingOf h) = sampledLevels h :=
  filterMap_clockingOf (fun e => by cases e <;> simp [Event.ofClocking]) h

/-! ### Selecting from a history -/

/-- `v` selects from a history part after part. -/
def Selects {α : Type} (v : List Event → List α) : Prop := ∀ g h, v (g ++ h) = v g ++ v h

theorem Selects.flatMap {α β : Type} {v : List Event → List α} (hv : Selects v) (l : List β) (f : β → List Event) :
    v (l.flatMap f) = l.flatMap fun b => v (f b) := by
  induction l with
  | nil => simpa using hv [] []
  | cons b l ih => rw [List.flatMap_cons, hv, ih, List.flatMap_cons]

theorem clockingOf_selects : Selects clockingOf := fun _ _ => List.filter_append ..
theorem edgesOf_selects : Selects edgesOf := fun _ _ => List.filter_append ..
theorem pollsOf_selects : Selects pollsOf := fun _ _ => List.filter_append ..
theorem sectionEventsOf_selects : Selects sectionEventsOf := fun _ _ => List.filter_append ..
theorem accessesOf_selects : Selects accessesOf := fun _ _ => List.filter_append ..
theorem sentLevels_selects : Selects sentLevels := fun _ _ => List.filterMap_append ..
theorem sampledLevels_selects : Selects sampledLevels := fun _ _ => List.filterMap_append ..
theorem returnedValues_selects : Selects returnedValues := fun _ _ => List.filterMap_append ..

/-! ### The levels of one byte -/

theorem bitsMsbFirst_append {m n : Nat} (v : BitVec m) (w : BitVec n) :
    bitsMsbFirst (v ++ w) = bitsMsbFirst v ++ bitsMsbFirst w := by
  rw [bitsMsbFirst, List.range_add, List.map_append, List.map_map]
  congr 1
  · refine List.map_congr_left fun j hj => ?_
    have hlt := List.mem_range.mp hj
    rw [BitVec.getLsbD_append, if_neg (by omega)]
    congr 1
    omega
  · refine List.map_congr_left fun j hj => ?_
    have hlt := List.mem_range.mp hj
    rw [Function.comp_apply, BitVec.getLsbD_append, if_pos (by omega)]
    congr 1
    omega

/-- The bits of the byte received are the levels taken in, highest first (R42, R86, R92). -/
theorem getLsbD_received (s : State) {j : Nat} (hj : j < 8) :
    (s.received 0 s.dr).getLsbD (7 - j) = s.levelIn j := by
  rw [← drAfter_eight, State.drAfter, getLsbD_shifted _ _ _ _ (by omega), if_pos (by omega)]
  congr 1
  omega

/-- The events of a byte are its section's entry, its bits, and its section's exit, each selected from on its own. -/
theorem Selects.clockEvents {α : Type} {v : List Event → List α} (hv : Selects v) (s : State) :
    v s.clockEvents = v [.regW .stat 0x40, .critEnter s.gie] ++ (List.range 8).flatMap (fun j => v (s.bitEvents j)) ++
      v [.regR .stat (statByte (statBits (s.statDraws + 16)) true 0), .critExit s.gie] := by
  rw [State.clockEvents, hv, hv, hv.flatMap]

section
variable (s : State)

theorem clockingOf_clockEvents : clockingOf s.clockEvents = s.clockEvents := by
  have hbit (j : Nat) : clockingOf (s.bitEvents j) = s.bitEvents j := by
    simp only [State.bitEvents, State.firstEdge, State.secondEdge]
    split <;> rfl
  rw [clockingOf_selects.clockEvents, List.flatMap_congr fun j _ => hbit j]
  rfl

/-- Two polls a bit, and the one that reads the flag set (R83). -/
theorem length_pollsOf_clockEvents : (pollsOf s.clockEvents).length = 17 := by
  have hbit (j : Nat) : pollsOf (s.bitEvents j) =
      [.regR .stat (s.pollByte (2 * j)), .regR .stat (s.pollByte (2 * j + 1))] := by
    simp only [State.bitEvents, State.firstEdge, State.secondEdge]
    split <;> rfl
  rw [pollsOf_selects.clockEvents, List.flatMap_congr fun j _ => hbit j]
  simp [List.length_flatMap, pollsOf]

/-- Each bit of the byte sent stands on the line at its sampling edge, the highest first (R80, R86). -/
theorem sentLevels_clockEvents : sentLevels s.clockEvents = bitsMsbFirst s.dr := by
  have hbit (j : Nat) : sentLevels (s.bitEvents j) = [(s.drAfter j).getLsbD 7] := by
    simp only [State.bitEvents, State.firstEdge, State.secondEdge]
    split <;> rfl
  rw [sentLevels_selects.clockEvents, List.flatMap_congr fun j _ => hbit j, ← List.map_eq_flatMap]
  exact (List.append_nil _).trans (List.map_congr_left fun j hj => drAfter_top s (List.mem_range.mp hj))

theorem sampledLevels_clockEvents : sampledLevels s.clockEvents = bitsMsbFirst (s.received 0 s.dr) := by
  have hbit (j : Nat) : sampledLevels (s.bitEvents j) = [s.levelIn j] := by
    simp only [State.bitEvents, State.firstEdge, State.secondEdge]
    split <;> rfl
  rw [sampledLevels_selects.clockEvents, List.flatMap_congr fun j _ => hbit j, ← List.map_eq_flatMap]
  exact (List.append_nil _).trans
    (List.map_congr_left fun j hj => (getLsbD_received s (List.mem_range.mp hj)).symm)

theorem sectionEventsOf_clockEvents : sectionEventsOf s.clockEvents = [.critEnter s.gie, .critExit s.gie] := by
  have hbit (j : Nat) : sectionEventsOf (s.bitEvents j) = [] := by
    simp only [State.bitEvents, State.firstEdge, State.secondEdge]
    split <;> rfl
  rw [sectionEventsOf_selects.clockEvents, List.flatMap_congr fun j _ => hbit j]
  rfl

/-- No access to `DATA` or memory lies between the entry and the exit of the section (R140). -/
theorem accessesOf_clockEvents : accessesOf s.clockEvents = [.critEnter s.gie, .critExit s.gie] := by
  have hbit (j : Nat) : accessesOf (s.bitEvents j) = [] := by
    simp only [State.bitEvents, State.firstEdge, State.secondEdge]
    split <;> rfl
  rw [accessesOf_selects.clockEvents, List.flatMap_congr fun j _ => hbit j]
  rfl

end

/-! ### The bytes of a transfer -/

/-- The state `s` with the byte `b` loaded and the draws of `k` bytes taken, as the clocking of a transfer's byte `k`
finds it. -/
def State.atByte (s : State) (k : Nat) (b : Byte) : State :=
  { s with dr := b, wireDraws := s.wireDraws + s.drawnFor k, statDraws := s.statDraws + 17 * k }

/-- The events of the clocking of a byte `b`, when `k` bytes have been exchanged before it since the state `s` (R83). -/
def State.byteEvents (s : State) (k : Nat) (b : Byte) : List Event := (s.atByte k b).clockEvents

section
variable (s : State) (k : Nat) (b : Byte)

theorem clockingOf_byteEvents : clockingOf (s.byteEvents k b) = s.byteEvents k b := clockingOf_clockEvents _

theorem sampledLevels_byteEvents : sampledLevels (s.byteEvents k b) = bitsMsbFirst (s.received k b) := by
  rw [State.byteEvents, sampledLevels_clockEvents]
  exact congrArg bitsMsbFirst (received_of_exchanged (s := s) (t := s.atByte k b) rfl rfl b)

theorem accessesOf_byteEvents : accessesOf (s.byteEvents k b) = [.critEnter s.gie, .critExit s.gie] :=
  accessesOf_clockEvents _

end

/-- The history `new` shows the exchange of `n` bytes from the state `s` on, byte `k` being sent as `out k`: for each
byte 16 edges, 17 polls, its bits out and in, and one section (R83, R86). -/
structure ShowsBytes (s : State) (n : Nat) (out : Nat → Byte) (new : List Event) : Prop where
  edges : (edgesOf new).length = 16 * n
  polls : (pollsOf new).length = 17 * n
  sent : sentLevels new = (List.range n).flatMap fun k => bitsMsbFirst (out k)
  sampled : sampledLevels new = (List.range n).flatMap fun k => bitsMsbFirst (s.received k (out k))
  sections : sectionEventsOf new = (List.range n).flatMap fun _ => [.critEnter s.gie, .critExit s.gie]

/-- A history whose events of the clocking are those of the bytes shows the bytes. -/
theorem showsBytes_of_clockingOf {s : State} {n : Nat} {out : Nat → Byte} {new : List Event}
    (h : clockingOf new = (List.range n).flatMap fun k => s.byteEvents k (out k)) : ShowsBytes s n out new where
  edges := by
    rw [← edgesOf_clockingOf, h, edgesOf_selects.flatMap, List.length_flatMap]
    simp [State.byteEvents, length_edgesOf_clockEvents, Nat.mul_comm]
  polls := by
    rw [← pollsOf_clockingOf, h, pollsOf_selects.flatMap, List.length_flatMap]
    simp [State.byteEvents, length_pollsOf_clockEvents, Nat.mul_comm]
  sent := by
    rw [← sentLevels_clockingOf, h, sentLevels_selects.flatMap]
    exact List.flatMap_congr fun k _ => sentLevels_clockEvents _
  sampled := by
    rw [← sampledLevels_clockingOf, h, sampledLevels_selects.flatMap]
    exact List.flatMap_congr fun k _ => sampledLevels_byteEvents s k (out k)
  sections := by
    rw [← sectionEventsOf_clockingOf, h, sectionEventsOf_selects.flatMap]
    exact List.flatMap_congr fun k _ => sectionEventsOf_clockEvents _

end Sys2Proof.Machine
end

section
/-! The transfers on working hardware (spec/41_transfer.md R83, R86 to R91, R94; spec/20_memory.md R42, R44): each is
its bytes one after another, and its next state and its events are counted from the state it starts in. -/

namespace Sys2Proof.Machine

open Sys2Proof.Config

/-! ### Running a command through -/

section
variable {i : Instr} {s t u : State} {n : Nat}

/-- A command that takes all its micro-operations, the last of which completes it. -/
theorem Continues.exec_eq (h : Continues (microOp i) n s t) (hn : microCount i = n + 1) (hu : microOp i t = .next u)
    (hp : u.point = .idle) : exec i s = .next u := by
  rw [exec_eq_runCommand, hn]
  exact (h.runCommand_eq 0).trans (runCommand_done hu hp)

theorem exec_history (h : exec i s = .next t) : s.history <+: t.history :=
  exec_keeps (P := fun a => s.history <+: a.history) h (fun _ _ hab ha => ha.trans hab.history) (List.prefix_refl _)

/-- What a command has appended to the history, the interrupt agent's events left out. -/
theorem exec_events {l : List Event} (h : exec i s = .next t)
    (hl : withoutPreempts t.history = withoutPreempts s.history ++ l) :
    ∃ new, t.history = s.history ++ new ∧ withoutPreempts new = l := by
  obtain ⟨new, hn⟩ := exec_history h
  refine ⟨new, hn.symm, ?_⟩
  rw [← hn, withoutPreempts_append] at hl
  exact List.append_cancel_left hl

end

/-! ### Between the bytes of a transfer -/

/-- `t` is `s`, the state a transfer starts in, after `k` bytes: what all its bytes leave alone, and the draws they
took. -/
structure Between (s : State) (k : Nat) (t : State) : Prop where
  frame : SameSettings s t
  port : t.port = s.port
  phase : t.phase = .idle
  wireDraws : t.wireDraws = s.wireDraws + s.drawnFor k
  statDraws : t.statDraws = s.statDraws + 17 * k

/-- `t` is `s` after byte `k` of a transfer, which was sent as `b`; the byte received is in the shift register. -/
structure ByteTaken (s : State) (k : Nat) (b : Byte) (t : State) : Prop extends Between s (k + 1) t where
  cnt : t.cnt = 0
  ovf : t.ovf = true
  dr : t.dr = s.received k b
  dol : t.dol = s.latchAfter b (s.received k b)

/-- The state `s` after a transfer of `k + 1` bytes the last of which was sent as `b`, with the given `RET`, memory,
history and yields. -/
def State.exchanged (s : State) (k : Nat) (b : Byte) (r : Option Word) (m : List Host.Cell) (h : List Event) (y : Nat) :
    State :=
  { s with
    dr := s.received k b, dol := s.latchAfter b (s.received k b), ovf := true, cnt := 0, ret := r, mem := m
    cp := s.cp + 1, locals := Locals.cleared
    wireDraws := s.wireDraws + s.drawnFor (k + 1), statDraws := s.statDraws + 17 * (k + 1)
    history := h, yields := y }

/-- The byte received is taken from `DATA` into a local. -/
def State.readOut (l : Locals) (p : Point) (t : State) : State := ((t.noteRead .data).setLocals l).goto p

@[simp] theorem readOut_params (l : Locals) (p : Point) (t : State) : (t.readOut l p).params = t.params := rfl
@[simp] theorem readOut_cp (l : Locals) (p : Point) (t : State) : (t.readOut l p).cp = t.cp := rfl
@[simp] theorem readOut_ret (l : Locals) (p : Point) (t : State) : (t.readOut l p).ret = t.ret := rfl
@[simp] theorem readOut_point (l : Locals) (p : Point) (t : State) : (t.readOut l p).point = p := rfl
@[simp] theorem readOut_locals (l : Locals) (p : Point) (t : State) : (t.readOut l p).locals = l := rfl
@[simp] theorem readOut_mem (l : Locals) (p : Point) (t : State) : (t.readOut l p).mem = t.mem := rfl

section
variable {s t x : State} {k : Nat} {b : Byte}

theorem between_zero (h : s.phase = .idle) : Between s 0 s where
  frame := .refl s
  port := rfl
  phase := h
  wireDraws := by cases hw : s.params.wiring <;> simp [State.drawnFor, hw]
  statDraws := rfl

/-- Writing the next byte to `DATA`. -/
theorem Between.loaded (h : Between s k t) (b : Byte) (p : Point) : Between s k ((t.loaded b).goto p).passYield where
  frame := h.frame.trans (by constructor <;> simp [State.loaded])
  port := by simp [State.loaded, h.port]
  phase := by simp [State.loaded, h.phase]
  wireDraws := by simp [State.loaded, h.wireDraws]
  statDraws := by simp [State.loaded, h.statDraws]

theorem ByteTaken.readOut (h : ByteTaken s k b t) (l : Locals) (p : Point) :
    ByteTaken s k b (t.readOut l p).passYield where
  frame := h.frame.trans (by constructor <;> simp [State.readOut])
  port := by simp [State.readOut, h.port]
  phase := by simp [State.readOut, h.phase]
  wireDraws := by simp [State.readOut, h.wireDraws]
  statDraws := by simp [State.readOut, State.noteRead, h.statDraws]
  cnt := by simp [State.readOut, h.cnt]
  ovf := by simp [State.readOut, h.ovf]
  dr := by simp [State.readOut, h.dr]
  dol := by simp [State.readOut, h.dol]

theorem readOut_history (l : Locals) (p : Point) (t : State) :
    withoutPreempts (t.readOut l p).passYield.history = withoutPreempts t.history ++ [.regR .data t.dr] := by
  simp [State.readOut, noteRead_history, State.regValue]

/-- `ClockByte()` after `k` bytes exchanges byte `k`. -/
theorem ByteClocked.byteTaken {ret : Nat} (h : ByteClocked ret x t) (hx : Between s k x) :
    ByteTaken s k x.dr t ∧ withoutPreempts t.history = withoutPreempts x.history ++ s.byteEvents k x.dr := by
  have hrec : x.received 0 x.dr = s.received k x.dr := received_of_exchanged hx.frame.params hx.wireDraws x.dr
  have hlatch (r : Byte) : x.latchAfter x.dr r = s.latchAfter x.dr r := by
    have hsck : x.sck = s.sck := by simp only [State.sck, hx.port, hx.frame.params]
    rw [State.latchAfter, State.latchAfter, hsck, hx.frame.cs0]
  have hclock : x.clockEvents = s.byteEvents k x.dr :=
    clockEvents_congr hx.frame.params hx.frame.ctrl hx.port rfl hx.wireDraws hx.statDraws hx.frame.gie
  refine ⟨⟨⟨hx.frame.trans h.frame, h.port.trans hx.port, h.phase, ?_, ?_⟩, h.cnt, h.ovf, h.dr.trans hrec, ?_⟩,
    hclock ▸ h.history⟩
  · rw [h.wireDraws, hx.wireDraws, drawnFor_congr hx.frame.params, drawnFor_succ s k, Nat.add_assoc]
  · rw [h.statDraws, hx.statDraws, Nat.mul_succ, Nat.add_assoc]
  · rw [h.dol, hlatch, hrec]

/-- A transfer's last micro-operation leaves the state that the transfer comes to. -/
theorem ByteTaken.complete_eq (h : ByteTaken s k b t) (hs : s.AtRest) (r : Option Word) (m : List Host.Cell)
    (e : List Event) :
    State.complete { t with ret := r, mem := m, history := e } = s.exchanged k b r m e t.yields := by
  obtain ⟨hp, -, hph⟩ := hs
  simp [State.complete, State.exchanged, h.frame.params, h.frame.cmds, h.frame.cp, h.frame.ctrl, h.frame.ddr,
    h.frame.gie, h.frame.hctrl, h.frame.dataMode, h.frame.initialized, h.frame.interruptMode, h.frame.interruptMask,
    h.frame.saved, h.port, h.phase, h.wireDraws, h.statDraws, h.cnt, h.ovf, h.dr, h.dol, hp, hph]

/-- The end of a transfer, whose last micro-operation records `e` and leaves `RET` and memory as `r` and `m`. -/
theorem ByteTaken.exec_eq {i : Instr} {n : Nat} {r : Option Word} {m : List Host.Cell} {e : Event} {l : List Event}
    (h : ByteTaken s k b t) (hs : s.AtRest) (hh : withoutPreempts t.history = withoutPreempts s.history ++ l)
    (hrun : Continues (microOp i) n s t) (hn : microCount i = n + 1) (he : e ≠ .preempt)
    (hend : microOp i t = .next (State.complete { t with ret := r, mem := m, history := t.history ++ [e] })) :
    ∃ new y, exec i s = .next (s.exchanged k b r m (s.history ++ new) y) ∧ withoutPreempts new = l ++ [e] := by
  have hexec := hrun.exec_eq hn hend rfl
  rw [h.complete_eq hs] at hexec
  obtain ⟨new, hnew, hevents⟩ := exec_events (l := l ++ [e]) hexec (by simp [State.exchanged, hh, he])
  have hnew' : t.history ++ [e] = s.history ++ new := hnew
  exact ⟨new, t.yields, by rw [hexec, hnew'], hevents⟩

end

/-! ### A byte of the single transfers -/

section
variable {s t : State} {k : Nat} {b : Byte}

/-- `t`, at line `ret`, is `a` after byte `k` of a transfer begun in `s`: it was loaded as `b` and clocked (R83, R86).
-/
structure ByteSent (s : State) (k : Nat) (b : Byte) (ret : Nat) (a t : State) : Prop extends ByteTaken s k b t where
  point : t.point = .line ret
  locals : t.locals = a.locals
  mem : t.mem = a.mem
  history : withoutPreempts t.history = withoutPreempts a.history ++ (.regW .data b :: s.byteEvents k b)

theorem byteSent_continues {m : State → Result} {call ret : Nat} {a : State}
    (hm : ∀ l u, u.point = .clock call l → m u = clockByte call ret l u) (hs : s.ReadyToTransfer) (ha : Between s k a)
    (b : Byte) :
    ∃ t, Continues m clockByteMicros ((a.loaded b).goto (.clock call .clear)).passYield t ∧ ByteSent s k b ret a t := by
  obtain ⟨⟨-, hsaved, -⟩, hv, hc, hf⟩ := hs
  have hx := ha.loaded b (.clock call .clear)
  have hl : ((a.loaded b).goto (.clock call .clear)).passYield.LatchHolds :=
    (passYield_sameBus _).latchHolds ((goto_sameBus _ _).latchHolds (loaded_latchHolds _ _))
  have hdr : ((a.loaded b).goto (.clock call .clear)).passYield.dr = b := by simp [State.loaded]
  obtain ⟨t, ht, hby⟩ := clockByte_continues hm (by simp) (by rw [hx.frame.params, hv]) (hx.frame.configured.trans hc)
    (by rw [hx.frame.params, hf]) (hx.frame.saved.trans hsaved) hl
  obtain ⟨htaken, hh⟩ := hby.byteTaken hx
  rw [hdr] at htaken hh
  refine ⟨t, ht, htaken, hby.point, ?_, ?_, ?_⟩
  · rw [hby.locals]
    simp
  · rw [hby.mem]
    simp [State.loaded]
  · rw [hh]
    simp [State.loaded]

end

/-! ### `XFER8` -/

section
variable {s t : State} {b : Byte}

theorem microXfer8_start (hv : s.params.variant = .usi) (hc : s.configured = true) (hp : s.point = .idle) :
    microXfer8 b s = .next ((s.loaded b).goto (.clock 2 .clear)) := by
  simp only [microXfer8, hp, admitTransfer_of_configured hv hc, regWrite_data hv, andThen_next]

theorem microXfer8_clock (l : ByteLine) (u : State) (hp : u.point = .clock 2 l) :
    microXfer8 b u = clockByte 2 3 l u := by
  simp only [microXfer8, hp]

theorem microXfer8_read (hv : t.params.variant = .usi) (hp : t.point = .line 3) :
    microXfer8 b t = .next (t.readOut { t.locals with v := t.dr } (.line 4)) := by
  simp [microXfer8, hp, regRead, regExists, hv, State.regValue, State.readOut]

theorem microXfer8_return (hp : t.point = .line 4) :
    microXfer8 b t = .next (t.setRet (t.locals.v.setWidth 16)).complete := by
  simp only [microXfer8, hp]

/-- `XFER8` on working hardware (R86). -/
theorem exec_xfer8 (hs : s.ReadyToTransfer) (b : Byte) :
    ∃ new y, exec (.xfer8 b) s = .next
        (s.exchanged 0 b (some ((s.received 0 b).setWidth 16)) s.mem (s.history ++ new) y) ∧
      withoutPreempts new = .regW .data b :: s.byteEvents 0 b ++
        [.regR .data (s.received 0 b), .ret s.cp ((s.received 0 b).setWidth 16)] := by
  have ⟨hrest, hv, hc, _⟩ := hs
  have ⟨hp, _, hph⟩ := hrest
  obtain ⟨t, ht, hsent⟩ := byteSent_continues (microXfer8_clock (b := b)) hs (between_zero hph) b
  have hread := microXfer8_read (b := b) (by rw [hsent.frame.params, hv]) hsent.point
  have hrun : Continues (microXfer8 b) _ s _ := (Continues.single (microXfer8_start hv hc hp) (by simp)).trans
    (ht.trans (.single hread (by simp)))
  have hret := microXfer8_return (b := b) (t := (t.readOut { t.locals with v := t.dr } (.line 4)).passYield) (by simp)
  obtain ⟨new, y, hexec, hevents⟩ := (hsent.readOut _ _).exec_eq (i := .xfer8 b) hrest
    ((readOut_history _ _ t).trans (by rw [hsent.history, List.append_assoc])) hrun rfl (by simp) hret
  refine ⟨new, y, ?_, ?_⟩
  · simpa [hsent.dr, hsent.mem] using hexec
  · simpa [hsent.dr, hsent.frame.cp] using hevents

end

/-! ### `XFER16` -/

section
variable {s t : State} {w : Word}

theorem microXfer16_start (hv : s.params.variant = .usi) (hc : s.configured = true) (hp : s.point = .idle) :
    microXfer16 w s = .next ((s.loaded (w.extractLsb' 8 8)).goto (.clock 2 .clear)) := by
  simp only [microXfer16, hp, admitTransfer_of_configured hv hc, regWrite_data hv, andThen_next]

theorem microXfer16_clock_high (l : ByteLine) (u : State) (hp : u.point = .clock 2 l) :
    microXfer16 w u = clockByte 2 3 l u := by
  simp only [microXfer16, hp]

theorem microXfer16_read_high (hv : t.params.variant = .usi) (hp : t.point = .line 3) :
    microXfer16 w t = .next (t.readOut { t.locals with hi := t.dr } (.line 4)) := by
  simp [microXfer16, hp, regRead, regExists, hv, State.regValue, State.readOut]

theorem microXfer16_load_low (hv : t.params.variant = .usi) (hp : t.point = .line 4) :
    microXfer16 w t = .next ((t.loaded (w.extractLsb' 0 8)).goto (.clock 5 .clear)) := by
  simp only [microXfer16, hp, regWrite_data hv, andThen_next]

theorem microXfer16_clock_low (l : ByteLine) (u : State) (hp : u.point = .clock 5 l) :
    microXfer16 w u = clockByte 5 6 l u := by
  simp only [microXfer16, hp]

theorem microXfer16_read_low (hv : t.params.variant = .usi) (hp : t.point = .line 6) :
    microXfer16 w t = .next (t.readOut { t.locals with lo := t.dr } (.line 7)) := by
  simp [microXfer16, hp, regRead, regExists, hv, State.regValue, State.readOut]

theorem microXfer16_return (hp : t.point = .line 7) :
    microXfer16 w t = .next (t.setRet (t.locals.hi ++ t.locals.lo)).complete := by
  simp only [microXfer16, hp]

/-- `XFER16` on working hardware (R87). -/
theorem exec_xfer16 (hs : s.ReadyToTransfer) (w : Word) :
    let hi := s.received 0 (w.extractLsb' 8 8)
    let lo := s.received 1 (w.extractLsb' 0 8)
    ∃ new y, exec (.xfer16 w) s = .next
        (s.exchanged 1 (w.extractLsb' 0 8) (some (hi ++ lo)) s.mem (s.history ++ new) y) ∧
      withoutPreempts new = .regW .data (w.extractLsb' 8 8) :: s.byteEvents 0 (w.extractLsb' 8 8) ++
        [.regR .data hi, .regW .data (w.extractLsb' 0 8)] ++ s.byteEvents 1 (w.extractLsb' 0 8) ++
        [.regR .data lo, .ret s.cp (hi ++ lo)] := by
  intro hi lo
  have ⟨hrest, hv, hc, _⟩ := hs
  have ⟨hp, _, hph⟩ := hrest
  obtain ⟨t, ht, hsent⟩ :=
    byteSent_continues (microXfer16_clock_high (w := w)) hs (between_zero hph) (w.extractLsb' 8 8)
  have hread := microXfer16_read_high (w := w) (by rw [hsent.frame.params, hv]) hsent.point
  have hbetween := (hsent.readOut { t.locals with hi := t.dr } (.line 4)).toBetween
  obtain ⟨u, hu, hlow⟩ := byteSent_continues (microXfer16_clock_low (w := w)) hs hbetween (w.extractLsb' 0 8)
  have hload := microXfer16_load_low (w := w) (t := (t.readOut { t.locals with hi := t.dr } (.line 4)).passYield)
    (by rw [hbetween.frame.params, hv]) (by simp)
  have hread' := microXfer16_read_low (w := w) (by rw [hlow.frame.params, hv]) hlow.point
  have hrun : Continues (microXfer16 w) _ s _ := (Continues.single (microXfer16_start hv hc hp) (by simp)).trans
    (ht.trans ((Continues.single hread (by simp)).trans ((Continues.single hload (by simp)).trans
      (hu.trans (.single hread' (by simp))))))
  have hret := microXfer16_return (w := w) (t := (u.readOut { u.locals with lo := u.dr } (.line 7)).passYield) (by simp)
  have hh : withoutPreempts (u.readOut { u.locals with lo := u.dr } (.line 7)).passYield.history =
      withoutPreempts s.history ++ (.regW .data (w.extractLsb' 8 8) :: s.byteEvents 0 (w.extractLsb' 8 8) ++
        [.regR .data hi, .regW .data (w.extractLsb' 0 8)] ++ s.byteEvents 1 (w.extractLsb' 0 8) ++
        [.regR .data lo]) := by
    rw [readOut_history, hlow.history, readOut_history, hsent.history, hsent.dr, hlow.dr]
    simp [hi, lo]
  obtain ⟨new, y, hexec, hevents⟩ := (hlow.readOut _ _).exec_eq (i := .xfer16 w) hrest hh hrun rfl (by simp) hret
  refine ⟨new, y, ?_, ?_⟩
  · simpa [hlow.dr, hlow.locals, hlow.mem, hsent.dr, hsent.mem] using hexec
  · simpa [hlow.dr, hlow.locals, hlow.frame.cp, hsent.dr] using hevents

end

end Sys2Proof.Machine
end

section
/-! `XFERBUF` on working hardware (spec/41_transfer.md R89; spec/20_memory.md R44, R54): its bytes in ascending order,
with the events they leave, and the last byte written back. -/

namespace Sys2Proof.Machine

open Sys2Proof.Config

/-- The events of one turn of `XFERBUF`'s loop, for byte `k` (lines 6 to 11 of R89). -/
def State.turnEvents (s : State) (addr : Addr) (out : Nat → Byte) (k : Nat) : List Event :=
  .memR (addr + BitVec.ofNat 16 (k + 1)) (out (k + 1)) :: s.byteEvents k (out k) ++
    [.regR .data (s.received k (out k)), .regW .data (out (k + 1)),
      .memW (addr + BitVec.ofNat 16 k) (s.received k (out k))]

/-- The events of `XFERBUF` up to the loop's head with byte `k` in `DATA` (R89), byte `j` of the buffer being `out j`.
-/
def State.loopEvents (s : State) (addr : Addr) (out : Nat → Byte) (k : Nat) : List Event :=
  [.memR addr (out 0), .regW .data (out 0)] ++ (List.range k).flatMap (s.turnEvents addr out)

/-- The events of `XFERBUF` for `last + 1` bytes (R89). -/
def State.bufferEvents (s : State) (addr : Addr) (out : Nat → Byte) (last : Nat) : List Event :=
  s.loopEvents addr out last ++ s.byteEvents last (out last) ++
    [.regR .data (s.received last (out last)), .memW (addr + BitVec.ofNat 16 last) (s.received last (out last))]

section
variable {addr : Addr} {count : Word} {s t u : State} {k : Nat} {out : Nat → Byte}

/-! ### Up to a byte -/

/-- Lines 2 and 3 (R89): the first byte is fetched and loaded, whether the flag ever sets or not. -/
theorem opening_continues {v : Byte} (hp : s.point = .idle) (hph : s.phase = .idle) (hv : s.params.variant = .usi)
    (hc : s.configured = true) (h0 : count ≠ 0) (hb : addr.toNat + count.toNat ≤ 2 ^ 16)
    (hn : memGet s.mem addr.toNat = some v) :
    ∃ t, Continues (microXferBuf addr count) 2 s t ∧ BytesDone addr count s 0 t ∧
      withoutPreempts t.history = withoutPreempts s.history ++ [.memR addr v, .regW .data v] := by
  have hfetch : microXferBuf addr count s = .next (s.fetchedFirst addr v) := by
    simp only [microXferBuf_of_pos h0, microBuffer, hp, admitTransfer_of_configured hv hc]
    exact (if_pos hb).trans (memRead_of_some hn)
  have hstart := microXferBuf_start (addr := addr) (t := (s.fetchedFirst addr v).passYield) h0
    (by simp [State.fetchedFirst]) (by simpa [State.fetchedFirst] using hv)
  exact ⟨_, (Continues.single hfetch (by simp [State.fetchedFirst])).trans
    (.single hstart (by simp [State.started, bufferHead_ne_idle])), bytesDone_zero hph hn,
    by simp [State.fetchedFirst, State.started, State.loaded]⟩

theorem BytesDone.between (h : BytesDone addr count s k t) : Between s k t :=
  ⟨h.frame, h.port, h.phase, h.wireDraws, h.statDraws⟩

/-- One turn more of the loop. -/
theorem BytesDone.turn {nxt : Byte} (h : BytesDone addr count s k t) (hs : s.ReadyToTransfer)
    (hb : addr.toNat + count.toNat ≤ 2 ^ 16) (hk : k + 1 < count.toNat)
    (hn : memGet s.mem (addr.toNat + (k + 1)) = some nxt) :
    ∃ u, Continues (microXferBuf addr count) 40 t u ∧ LoopTurn addr count nxt t u := by
  have h0 : count ≠ 0 := by rintro rfl; exact absurd hk (Nat.not_lt_zero _)
  obtain ⟨⟨-, hsaved, -⟩, hv, hc, hf⟩ := hs
  exact loopTurn_continues h0 (h.point_line hk) ((h.fetch_mem (by omega)).trans hn) (by rw [h.frame.params, hv])
    (h.frame.configured.trans hc) (by rw [h.frame.params, hf]) (h.frame.saved.trans hsaved) h.latch

/-- The events of a turn, counted from the start of the command. -/
theorem LoopTurn.turnEvents (hu : LoopTurn addr count (out (k + 1)) t u) (h : BytesDone addr count s k t)
    (hk : memGet s.mem (addr.toNat + k) = some (out k)) :
    withoutPreempts u.history = withoutPreempts t.history ++ s.turnEvents addr out k := by
  have hdr : t.dr = out k := Option.some.inj (h.dr.symm.trans hk)
  have hrec : t.received 0 t.dr = s.received k (out k) := by
    rw [received_of_exchanged h.frame.params h.wireDraws, hdr]
  have hclock : t.clockEvents = s.byteEvents k (out k) :=
    clockEvents_congr h.frame.params h.frame.ctrl h.port hdr h.wireDraws h.statDraws h.frame.gie
  rw [hu.history, hclock, hrec, h.fetch_addr, h.counter]
  rfl

/-- The run gets to byte `k` of a buffer whose bytes up to it hold values, with the events of the bytes before it. -/
theorem loop_continues (hs : s.ReadyToTransfer) (hb : addr.toNat + count.toNat ≤ 2 ^ 16) (hk : k < count.toNat)
    (hout : ∀ j, j ≤ k → memGet s.mem (addr.toNat + j) = some (out j)) :
    ∃ t, Continues (microXferBuf addr count) (40 * k + 2) s t ∧ BytesDone addr count s k t ∧
      withoutPreempts t.history = withoutPreempts s.history ++ s.loopEvents addr out k := by
  induction k with
  | zero =>
    have h0 : count ≠ 0 := by rintro rfl; exact absurd hk (Nat.not_lt_zero _)
    obtain ⟨⟨hp, -, hph⟩, hv, hc, -⟩ := hs
    simpa [State.loopEvents] using opening_continues hp hph hv hc h0 hb (hout 0 le_rfl)
  | succ k ih =>
    obtain ⟨t, ht, hd, hh⟩ := ih (by omega) fun j hj => hout j (by omega)
    have hn := hout (k + 1) le_rfl
    obtain ⟨u, hu, hturn⟩ := hd.turn hs hb hk hn
    refine ⟨u, by simpa [Nat.mul_add, Nat.add_right_comm] using ht.trans hu, hd.succ (by omega) hn hturn, ?_⟩
    rw [hturn.turnEvents hd (hout k (by omega)), hh]
    simp [State.loopEvents, List.range_succ]

/-! ### The last byte -/

theorem BytesDone.point_last (h : BytesDone addr count s k t) (hk : k + 1 = count.toNat) :
    t.point = .clock 12 .clear := by
  have hlt : k < 2 ^ 16 := by omega
  rw [h.point, bufferHead, if_neg (by rw [BitVec.toNat_ofNat, Nat.mod_eq_of_lt hlt]; omega)]

theorem microXferBuf_clock_last (h0 : count ≠ 0) (l : ByteLine) (u : State) (hp : u.point = .clock 12 l) :
    microXferBuf addr count u = clockByte 12 13 l u := by
  simp only [microXferBuf_of_pos h0, microBuffer, hp]

theorem microXferBuf_read_last (h0 : count ≠ 0) (hv : t.params.variant = .usi) (hp : t.point = .line 13) :
    microXferBuf addr count t = .next (t.readOut { t.locals with inp := t.dr } (.line 14)) := by
  simp [microXferBuf_of_pos h0, microBuffer, hp, regRead, regExists, hv, State.regValue, State.readOut]

theorem microXferBuf_store_last (hk : k + 1 = count.toNat) (hp : t.point = .line 14) :
    microXferBuf addr count t = .next (t.memWrite (addr + BitVec.ofNat 16 k) t.locals.inp).complete := by
  have h0 : count ≠ 0 := by rintro rfl; simp at hk
  have hlast : count - 1 = BitVec.ofNat 16 k := by
    apply BitVec.eq_of_toNat_eq
    bv_omega
  simp only [microXferBuf_of_pos h0, microBuffer, hp, hlast]

/-- Memory after the last byte has been written back (R89). -/
theorem BytesDone.memGet_last (h : BytesDone addr count s k t) (hk : memGet s.mem (addr.toNat + k) = some (out k)) :
    (∀ j, j < k + 1 → memGet (memSet t.mem (addr.toNat + k) (s.received k (out k))) (addr.toNat + j) =
      (memGet s.mem (addr.toNat + j)).map (s.received j)) ∧
    (∀ a, a < addr.toNat ∨ addr.toNat + (k + 1) ≤ a →
      memGet (memSet t.mem (addr.toNat + k) (s.received k (out k))) a = memGet s.mem a) := by
  refine ⟨fun j hj => ?_, fun a ha => ?_⟩
  · rcases Nat.lt_succ_iff_lt_or_eq.mp hj with hlt | rfl
    · rw [memGet_memSet_other _ _ _ _ (by omega), h.landed j hlt]
    · rw [memGet_memSet_same, hk]
      rfl
  · rw [memGet_memSet_other _ _ _ _ (by omega), h.others a (by omega)]

/-- `XFERBUF` on working hardware (R89): `last` numbers the last byte of its buffer. -/
theorem exec_xferBuf {last : Nat} (hs : s.ReadyToTransfer) (hlast : last + 1 = count.toNat)
    (hb : addr.toNat + count.toNat ≤ 2 ^ 16) (hout : ∀ j, j ≤ last → memGet s.mem (addr.toNat + j) = some (out j)) :
    ∃ m new y, exec (.xferBuf addr count) s = .next
        (s.exchanged last (out last) s.ret m (s.history ++ new) y) ∧
      withoutPreempts new = s.bufferEvents addr out last ∧
      (∀ j, j < last + 1 → memGet m (addr.toNat + j) = (memGet s.mem (addr.toNat + j)).map (s.received j)) ∧
      (∀ a, a < addr.toNat ∨ addr.toNat + (last + 1) ≤ a → memGet m a = memGet s.mem a) := by
  have h0 : count ≠ 0 := by rintro rfl; simp at hlast
  have ⟨hrest, hv, hc, hf⟩ := hs
  have ⟨_, hsaved, _⟩ := hrest
  obtain ⟨t, ht, hd, hh⟩ := loop_continues (k := last) hs hb (by omega) hout
  have hdr : t.dr = out last := Option.some.inj (hd.dr.symm.trans (hout last le_rfl))
  obtain ⟨c, hcont, hby⟩ := clockByte_continues (microXferBuf_clock_last (addr := addr) h0) (hd.point_last hlast)
    (by rw [hd.frame.params, hv]) (hd.frame.configured.trans hc) (by rw [hd.frame.params, hf])
    (hd.frame.saved.trans hsaved) hd.latch
  obtain ⟨htaken, hch⟩ := hby.byteTaken hd.between
  rw [hdr] at htaken hch
  have hread := microXferBuf_read_last (addr := addr) h0 (by rw [htaken.frame.params, hv]) hby.point
  have hy := htaken.readOut { c.locals with inp := c.dr } (.line 14)
  have hstore := microXferBuf_store_last (addr := addr)
    (t := (c.readOut { c.locals with inp := c.dr } (.line 14)).passYield) hlast (by simp)
  have hrun : Continues (microXferBuf addr count) _ s _ := ht.trans (hcont.trans (.single hread (by simp)))
  have hmicros : microCount (.xferBuf addr count) = 40 * last + 2 + (clockByteMicros + 1) + 1 := by
    simp only [microCount, xferBufMicros, if_neg h0, clockByteMicros, ← hlast]
    omega
  obtain ⟨new, y, hexec, hevents⟩ := (htaken.readOut _ _).exec_eq (i := .xferBuf addr count) hrest
    (by rw [readOut_history, hch, hh, htaken.dr, List.append_assoc, List.append_assoc]) hrun hmicros (by simp) hstore
  obtain ⟨hlanded, hothers⟩ := hd.memGet_last (hout last le_rfl)
  refine ⟨_, new, y, ?_, ?_, hlanded, hothers⟩
  · simpa [toNat_addr_add (by omega : addr.toNat + last < 2 ^ 16), hby.mem, htaken.dr, htaken.frame.ret] using hexec
  · simpa [State.bufferEvents, htaken.dr] using hevents

end

end Sys2Proof.Machine
end

section
/-! What the transfers come to (spec/41_transfer.md R83, R86 to R94; spec/20_memory.md R42, R44, R54): their next
states, what their histories show, loopback, and a buffer compared with its single transfers. -/

namespace Sys2Proof.Machine

open Sys2Proof.Config

/-! ### The next states -/

/-- Settles O36: the transfer of one byte, its history left open. -/
theorem xfer8ExchangesOneByte : Obligations.Xfer8ExchangesOneByte := by
  intro b s hs
  obtain ⟨new, y, hexec, -⟩ := exec_xfer8 hs b
  exact ⟨_, y, hexec⟩

/-- Settles O37: the transfer of two bytes, its history left open. -/
theorem xfer16ExchangesTwoBytes : Obligations.Xfer16ExchangesTwoBytes := by
  intro w s hs hi lo
  obtain ⟨new, y, hexec, -⟩ := exec_xfer16 hs w
  exact ⟨_, y, hexec⟩

/-- The bytes of a buffer that holds values (R44); elsewhere 0. -/
def State.bufferByte (s : State) (addr : Addr) (k : Nat) : Byte := (memGet s.mem (addr.toNat + k)).getD 0

theorem memGet_bufferByte {s : State} {addr : Addr} {count : Word} (h : bufferHolds s.mem addr count = true) {k : Nat}
    (hk : k < count.toNat) : memGet s.mem (addr.toNat + k) = some (s.bufferByte addr k) := by
  have hsome := List.all_eq_true.mp h k (List.mem_range.mpr hk)
  obtain ⟨v, hv⟩ := Option.isSome_iff_exists.mp hsome
  simp [State.bufferByte, hv]

theorem exists_last {count : Word} (h : count ≠ 0) : ∃ last, last + 1 = count.toNat := by
  have hne : count.toNat ≠ 0 := fun h0 => h (BitVec.eq_of_toNat_eq h0)
  exact ⟨count.toNat - 1, by omega⟩

/-- Settles O38: the transfer of a buffer's bytes, its history left open. -/
theorem xferBufExchangesInPlace : Obligations.XferBufExchangesInPlace := by
  intro addr count lastByte s hs h0 hb hholds hlastByte
  obtain ⟨last, hlast⟩ := exists_last h0
  obtain ⟨m, new, y, hexec, -, hlanded, hothers⟩ := exec_xferBuf hs hlast hb
    (fun j hj => memGet_bufferByte hholds (by omega))
  have hbyte : s.bufferByte addr last = lastByte := by
    rw [← hlast, Nat.add_sub_cancel] at hlastByte
    simp [State.bufferByte, hlastByte]
  rw [hbyte] at hexec
  rw [← hlast]
  exact ⟨m, _, y, hexec, hlanded, hothers⟩

/-! ### The histories -/

theorem accessesOf_withoutPreempts (h : List Event) : accessesOf (withoutPreempts h) = accessesOf h := by
  rw [accessesOf, accessesOf, withoutPreempts, List.filter_filter]
  congr 1
  funext e
  cases e <;> simp

theorem returnedValues_withoutPreempts (h : List Event) : returnedValues (withoutPreempts h) = returnedValues h := by
  rw [returnedValues, returnedValues, withoutPreempts, List.filterMap_filter]
  congr 1
  funext e
  cases e <;> simp

/-- `ClockByte()` returns no result. -/
theorem returnedValues_clockEvents (s : State) : returnedValues s.clockEvents = [] := by
  have hbit (j : Nat) : returnedValues (s.bitEvents j) = [] := by
    simp only [State.bitEvents, State.firstEdge, State.secondEdge]
    split <;> rfl
  rw [returnedValues_selects.clockEvents, List.flatMap_congr fun j _ => hbit j]
  rfl

section
variable {s : State}

/-- What the history of `XFER8` holds (R86). -/
theorem exec_xfer8_history (hs : s.ReadyToTransfer) (b : Byte) :
    ∃ new y, exec (.xfer8 b) s = .next
        (s.exchanged 0 b (some ((s.received 0 b).setWidth 16)) s.mem (s.history ++ new) y) ∧
      clockingOf new = s.byteEvents 0 b ∧
      accessesOf new = byteAccesses s.gie b (s.received 0 b) ∧
      returnedValues new = [(s.received 0 b).setWidth 16] := by
  obtain ⟨new, y, hexec, hnew⟩ := exec_xfer8 hs b
  refine ⟨new, y, hexec, ?_, ?_, ?_⟩
  · rw [← clockingOf_withoutPreempts, hnew, ← List.singleton_append, clockingOf_append, clockingOf_append,
      clockingOf_byteEvents]
    simp [clockingOf, Event.ofClocking]
  · rw [← accessesOf_withoutPreempts, hnew, ← List.singleton_append, accessesOf_selects, accessesOf_selects,
      accessesOf_byteEvents]
    rfl
  · rw [← returnedValues_withoutPreempts, hnew, ← List.singleton_append, returnedValues_selects,
      returnedValues_selects, State.byteEvents, returnedValues_clockEvents]
    rfl

/-- The bytes of `XFER16` in the order they are sent (R42, R87). -/
def wordByte (w : Word) (k : Nat) : Byte := if k = 0 then w.extractLsb' 8 8 else w.extractLsb' 0 8

theorem wordByte_append (w : Word) : wordByte w 0 ++ wordByte w 1 = w := BitVec.extractLsb'_append_extractLsb'

/-- What the history of `XFER16` holds (R87, R88). -/
theorem exec_xfer16_history (hs : s.ReadyToTransfer) (w : Word) :
    ∃ new y, exec (.xfer16 w) s = .next
        (s.exchanged 1 (wordByte w 1) (some (s.received 0 (wordByte w 0) ++ s.received 1 (wordByte w 1))) s.mem
          (s.history ++ new) y) ∧
      clockingOf new = (List.range 2).flatMap (fun k => s.byteEvents k (wordByte w k)) ∧
      accessesOf new = byteAccesses s.gie (wordByte w 0) (s.received 0 (wordByte w 0)) ++
        byteAccesses s.gie (wordByte w 1) (s.received 1 (wordByte w 1)) := by
  obtain ⟨new, y, hexec, hnew⟩ := exec_xfer16 hs w
  refine ⟨new, y, hexec, ?_, ?_⟩
  · rw [← clockingOf_withoutPreempts, hnew, ← List.singleton_append, clockingOf_append, clockingOf_append,
      clockingOf_append, clockingOf_append, clockingOf_byteEvents, clockingOf_byteEvents]
    simp [clockingOf, Event.ofClocking, List.range_succ, wordByte]
  · rw [← accessesOf_withoutPreempts, hnew, ← List.singleton_append, accessesOf_selects, accessesOf_selects,
      accessesOf_selects, accessesOf_selects, accessesOf_byteEvents, accessesOf_byteEvents]
    rfl

section
variable (addr : Addr) (out : Nat → Byte)

theorem clockingOf_turnEvents (k : Nat) : clockingOf (s.turnEvents addr out k) = s.byteEvents k (out k) := by
  rw [State.turnEvents, ← List.singleton_append, clockingOf_append, clockingOf_append, clockingOf_byteEvents]
  simp [clockingOf, Event.ofClocking]

theorem accessesOf_turnEvents (k : Nat) : accessesOf (s.turnEvents addr out k) =
    [.memR (addr + BitVec.ofNat 16 (k + 1)) (out (k + 1)), .critEnter s.gie, .critExit s.gie,
      .regR .data (s.received k (out k)), .regW .data (out (k + 1)),
      .memW (addr + BitVec.ofNat 16 k) (s.received k (out k))] := by
  rw [State.turnEvents, ← List.singleton_append, accessesOf_selects, accessesOf_selects, accessesOf_byteEvents]
  rfl

theorem clockingOf_bufferEvents (last : Nat) :
    clockingOf (s.bufferEvents addr out last) = (List.range (last + 1)).flatMap fun k => s.byteEvents k (out k) := by
  rw [State.bufferEvents, State.loopEvents, clockingOf_append, clockingOf_append, clockingOf_append,
    clockingOf_selects.flatMap, clockingOf_byteEvents, List.flatMap_congr fun k _ => clockingOf_turnEvents addr out k,
    List.range_succ, List.flatMap_append]
  simp [clockingOf, Event.ofClocking]

theorem accessesOf_bufferEvents (last : Nat) :
    accessesOf (s.bufferEvents addr out last) =
      bufferAccesses s.gie addr last out fun k => s.received k (out k) := by
  rw [State.bufferEvents, State.loopEvents, accessesOf_selects, accessesOf_selects, accessesOf_selects,
    accessesOf_selects.flatMap, accessesOf_byteEvents, List.flatMap_congr fun k _ => accessesOf_turnEvents addr out k,
    bufferAccesses, List.append_assoc]
  rfl

end

/-- What the history of `XFERBUF` holds (R89). -/
theorem exec_xferBuf_history {addr : Addr} {count : Word} {out : Nat → Byte} {last : Nat} (hs : s.ReadyToTransfer)
    (hlast : last + 1 = count.toNat) (hb : addr.toNat + count.toNat ≤ 2 ^ 16)
    (hout : ∀ j, j ≤ last → memGet s.mem (addr.toNat + j) = some (out j)) :
    ∃ m new y, exec (.xferBuf addr count) s = .next (s.exchanged last (out last) s.ret m (s.history ++ new) y) ∧
      clockingOf new = (List.range (last + 1)).flatMap (fun k => s.byteEvents k (out k)) ∧
      accessesOf new = bufferAccesses s.gie addr last out (fun k => s.received k (out k)) ∧
      ∀ j, j < last + 1 → memGet m (addr.toNat + j) = some (s.received j (out j)) := by
  obtain ⟨m, new, y, hexec, hnew, hlanded, -⟩ := exec_xferBuf hs hlast hb hout
  refine ⟨m, new, y, hexec, ?_, ?_, fun j hj => ?_⟩
  · rw [← clockingOf_withoutPreempts, hnew, clockingOf_bufferEvents]
  · rw [← accessesOf_withoutPreempts, hnew, accessesOf_bufferEvents]
  · rw [hlanded j hj, hout j (by omega)]
    rfl

end

/-- Settles O41: each history holds the clocking of the transfer's bytes, and its accesses in order. -/
theorem wireShowsBytesMsbFirst : Obligations.WireShowsBytesMsbFirst := by
  intro s hs
  refine ⟨fun b => ?_, fun w => ?_, fun addr last out hb hlast hout => ?_⟩
  · obtain ⟨new, y, hexec, hclock, hacc, -⟩ := exec_xfer8_history hs b
    have hshows := showsBytes_of_clockingOf (out := fun _ => b) (n := 1) (by simpa using hclock)
    exact ⟨_, new, hexec, rfl, hshows.edges, hshows.polls, by simpa using hshows.sent, by simpa using hshows.sampled,
      hshows.sections, hacc⟩
  · obtain ⟨new, y, hexec, hclock, hacc⟩ := exec_xfer16_history hs w
    have hshows := showsBytes_of_clockingOf hclock
    refine ⟨_, new, hexec, rfl, hshows.edges, hshows.polls, ?_, ?_, hshows.sections, hacc⟩
    · rw [hshows.sent, ← wordByte_append w, bitsMsbFirst_append, wordByte_append]
      simp [List.range_succ]
    · rw [hshows.sampled, bitsMsbFirst_append]
      simp [List.range_succ, wordByte]
  · have hcount : last + 1 = (BitVec.ofNat 16 (last + 1)).toNat := by
      rw [BitVec.toNat_ofNat, Nat.mod_eq_of_lt hlast]
    obtain ⟨m, new, y, hexec, hclock, hacc, -⟩ := exec_xferBuf_history hs hcount (by rwa [← hcount]) hout
    have hshows := showsBytes_of_clockingOf hclock
    exact ⟨_, new, hexec, rfl, hshows.edges, hshows.polls, hshows.sent, hshows.sampled, hshows.sections, hacc⟩

/-- Settles O43: sixteen edges a byte, and the state a transfer comes to keeps `PORT`. -/
theorem clockLineReturns : Obligations.ClockLineReturns := by
  rintro i n s hs (⟨⟨b, rfl⟩, rfl⟩ | ⟨⟨w, rfl⟩, rfl⟩ | ⟨addr, count, rfl, rfl, hb, hholds⟩)
  · obtain ⟨new, y, hexec, hclock, -⟩ := exec_xfer8_history hs b
    have hshows := showsBytes_of_clockingOf (out := fun _ => b) (n := 1) (by simpa using hclock)
    exact ⟨_, new, hexec, rfl, hshows.edges, rfl, rfl⟩
  · obtain ⟨new, y, hexec, hclock, -⟩ := exec_xfer16_history hs w
    exact ⟨_, new, hexec, rfl, (showsBytes_of_clockingOf hclock).edges, rfl, rfl⟩
  · by_cases h0 : count = 0
    · subst h0
      obtain ⟨⟨hp, -, -⟩, hv, -⟩ := hs
      exact ⟨_, [], emptyBufferIsNoOp addr s hp hv, (List.append_nil _).symm, rfl, rfl, rfl⟩
    · obtain ⟨last, hlast⟩ := exists_last h0
      obtain ⟨m, new, y, hexec, hclock, -⟩ := exec_xferBuf_history hs hlast hb
        (fun j hj => memGet_bufferByte hholds (by omega))
      exact ⟨_, new, hexec, rfl, hlast ▸ (showsBytes_of_clockingOf hclock).edges, rfl, rfl⟩

/-! ### Loopback -/

theorem received_loopback {s : State} (hw : s.params.wiring = .loopback) (k : Nat) (b : Byte) : s.received k b = b := by
  simp only [State.received, hw]

/-- Shifting in the bit that the shift register shifts out rotates it. -/
theorem shift_in_top (v : Byte) : v.extractLsb' 0 7 ++ BitVec.ofBool (v.getLsbD 7) = v.rotateLeft 1 := by
  decide +revert

/-- Settles O40: in loopback the byte received is the byte sent, and the level taken in is the shift register's top
bit. -/
theorem loopbackIsIdentity : Obligations.LoopbackIsIdentity := by
  intro s hs hw
  have hrec := received_loopback hw
  refine ⟨fun b => ?_, fun w => ?_, fun addr count h0 hb hholds => ?_, fun hl hk => ?_⟩
  · obtain ⟨new, y, hexec, -⟩ := exec_xfer8_history hs b
    exact ⟨_, hexec, by simp [State.exchanged, hrec]⟩
  · obtain ⟨new, y, hexec, -⟩ := exec_xfer16_history hs w
    exact ⟨_, hexec, by simp only [State.exchanged, hrec, wordByte_append]⟩
  · obtain ⟨last, hlast⟩ := exists_last h0
    obtain ⟨m, new, y, hexec, -, hlanded, hothers⟩ := exec_xferBuf hs hlast hb
      (fun j hj => memGet_bufferByte hholds (by omega))
    refine ⟨_, hexec, fun a => ?_⟩
    by_cases ha : a < addr.toNat ∨ addr.toNat + (last + 1) ≤ a
    · exact hothers a ha
    · obtain ⟨j, rfl⟩ : ∃ j, a = addr.toNat + j := ⟨a - addr.toNat, by omega⟩
      exact (hlanded j (by omega)).trans (by simp [show s.received j = id from funext (hrec j)])
  · obtain ⟨-, hv, hc, -⟩ := hs
    have hlevel : s.diLevel = s.dr.getLsbD 7 := by
      rw [diLevel_of_configured hc, State.lineLevel, hw]
      exact hl hv hk
    rw [strobe_dr hk, hlevel, shift_in_top]

/-! ### A buffer and its single transfers -/

section
variable {s : State}

/-- After a byte the engine is ready for the next transfer. -/
theorem exchanged_ready (hs : s.ReadyToTransfer) (k : Nat) (b : Byte) (r : Option Word) (m : List Host.Cell)
    (h : List Event) (y : Nat) : (s.exchanged k b r m h y).ReadyToTransfer := hs

/-- Counted from the state after one byte, byte `k` is byte `k + 1`. -/
theorem exchanged_received (k : Nat) (b c : Byte) (r : Option Word) (m : List Host.Cell) (h : List Event) (y : Nat) :
    (s.exchanged 0 b r m h y).received k c = s.received (k + 1) c := by
  cases hw : s.params.wiring <;>
    simp [State.received, State.exchanged, State.drawnFor, hw, Nat.mul_add, Nat.add_assoc, Nat.add_comm]

theorem exchanged_byteEvents (k : Nat) (b c : Byte) (r : Option Word) (m : List Host.Cell) (h : List Event) (y : Nat) :
    (s.exchanged 0 b r m h y).byteEvents k c = s.byteEvents (k + 1) c := by
  have hwire : s.wireDraws + s.drawnFor 1 + (s.exchanged 0 b r m h y).drawnFor k =
      s.wireDraws + s.drawnFor (k + 1) := by
    rw [drawnFor_congr (s := s) (t := s.exchanged 0 b r m h y) rfl, drawnFor_succ s k]
    omega
  have hstat : s.statDraws + 17 * 1 + 17 * k = s.statDraws + 17 * (k + 1) := by omega
  exact clockEvents_congr rfl rfl rfl rfl hwire hstat rfl

/-- The single transfers of the bytes `out 0`, `out 1`, ...: their clocking is that of the bytes in turn, and so are the
results they return. -/
theorem singleTransfers_history (hs : s.ReadyToTransfer) (n : Nat) (out : Nat → Byte) :
    ∃ u new, singleTransfers ((List.range n).map out) s = .next u ∧ u.history = s.history ++ new ∧
      clockingOf new = (List.range n).flatMap (fun k => s.byteEvents k (out k)) ∧
      returnedValues new = (List.range n).map fun k => (s.received k (out k)).setWidth 16 := by
  induction n generalizing s out with
  | zero => exact ⟨s, [], rfl, (List.append_nil _).symm, rfl, rfl⟩
  | succ n ih =>
    obtain ⟨first, y, hexec, hclock, -, hret⟩ := exec_xfer8_history hs (out 0)
    obtain ⟨u, rest, hrun, hh, hclocks, hrets⟩ := ih (exchanged_ready hs 0 (out 0)
      (some ((s.received 0 (out 0)).setWidth 16)) s.mem (s.history ++ first) y) (out ∘ Nat.succ)
    refine ⟨u, first ++ rest, ?_, hh.trans (List.append_assoc ..), ?_, ?_⟩
    · rw [List.range_succ_eq_map, List.map_cons, List.map_map]
      exact (andThen_of_next hexec).trans hrun
    · rw [clockingOf_append, hclock, hclocks, List.range_succ_eq_map, List.flatMap_cons, List.flatMap_map]
      simp [exchanged_byteEvents]
    · rw [returnedValues_selects, hret, hrets, List.range_succ_eq_map, List.map_cons, List.map_map]
      simp [exchanged_received, Function.comp_def]

end

/-- Settles O42: both histories hold the clocking of the same bytes, and the buffer holds what the results return. -/
theorem bufferMatchesSingleTransfers : Obligations.BufferMatchesSingleTransfers := by
  intro addr count bytes s hs h0 hb hbytes
  obtain ⟨last, hlast⟩ := exists_last h0
  have hout (j : Nat) (hj : j ≤ last) : memGet s.mem (addr.toNat + j) = some (s.bufferByte addr j) := by
    have hlen : bytes.length = count.toNat := by simpa using (congrArg List.length hbytes).symm
    have hj' : j < count.toNat := by omega
    have hget := List.getElem_of_eq hbytes (i := j) (by simpa using hj')
    simp only [List.getElem_map, List.getElem_range] at hget
    simp [State.bufferByte, hget]
  have hlist : bytes = (List.range (last + 1)).map (s.bufferByte addr) := by
    refine List.map_injective_iff.mpr (Option.some_injective _) ?_
    rw [← hbytes, ← hlast, List.map_map]
    exact List.map_congr_left fun j hj => hout j (Nat.lt_succ_iff.mp (List.mem_range.mp hj))
  obtain ⟨m, new, y, hexec, hclock, -, hlanded⟩ := exec_xferBuf_history hs hlast hb hout
  obtain ⟨u, new', hrun, hh, hclock', hret⟩ := singleTransfers_history hs (last + 1) (s.bufferByte addr)
  refine ⟨_, u, new', hexec, hlist ▸ hrun, hh, ?_, ?_⟩
  · rw [hh]
    simp only [State.exchanged, edgesOf_append]
    rw [← edgesOf_clockingOf new, ← edgesOf_clockingOf new', hclock, hclock']
  · rw [hret, ← hlast, List.map_map]
    exact List.map_congr_left fun j hj => (hlanded j (List.mem_range.mp hj)).trans (by simp)

end Sys2Proof.Machine
end

section
/-! A transfer where the overflow flag never sets (spec/41_transfer.md R83, R84; spec/10_state.md R19): its first byte's
section is opened, and from there polls and strobes follow each other without end. -/

namespace Sys2Proof.Machine

open Sys2Proof.Config

/-! ### Parts of a run -/

section
variable {m : State → Result} {s t : State} {a b n : Nat}

/-- The first micro-operations of a run. -/
theorem Continues.take (h : Continues m (a + b) s t) : ∃ u, Continues m a s u := by
  induction a generalizing s with
  | zero => exact ⟨s, .refl s⟩
  | succ a ih =>
    rw [Nat.add_right_comm] at h
    cases h with
    | cons hm hp r =>
      obtain ⟨u, hu⟩ := ih r
      exact ⟨u, .cons hm hp hu⟩

/-- No micro-operation of a run completes its command. -/
theorem Continues.point_ne_idle (h : Continues m n s t) (hn : n ≠ 0) : t.point ≠ .idle := by
  induction h with
  | refl s => exact absurd rfl hn
  | @cons n s x u hm hp r ih =>
    cases n with
    | zero =>
      cases r
      simpa using hp
    | succ n => exact ih n.succ_ne_zero

end

/-! ### The polling loop without the flag -/

/-- `t` polls the flag, which never sets, inside the section of the `ClockByte()` that line `call` calls (R84); the
history holds `n` edges more than that of `s`. -/
structure Polling (call : Nat) (s : State) (n : Nat) (t : State) : Prop where
  point : t.point = .clock call .poll
  variant : t.params.variant = .usi
  fault : t.params.hwFaultNoOverflow = true
  configured : t.configured = true
  saved : t.saved.isSome = true
  gie : t.gie = false
  phase : t.phase = .clocking
  ovf : t.ovf = false
  latch : t.LatchHolds
  edges : (edgesOf t.history).length = (edgesOf s.history).length + n

section
variable {s t : State} {call n : Nat}

/-- A poll and a strobe make one edge. -/
theorem length_edgesOf_pollStrobe (call : Nat) (hc : t.configured = true) :
    (edgesOf (t.pollStrobe call).history).length = (edgesOf t.history).length + 1 := by
  by_cases hk : t.sck = t.cs0
  · obtain ⟨-, -, -, hh⟩ := pollStrobe_sampling call hk hc
    rw [hh, edgesOf_append, List.length_append]
    rfl
  · obtain ⟨-, -, -, hh⟩ := pollStrobe_setup call hk
    rw [hh, edgesOf_append, List.length_append]
    rfl

/-- Where the hardware never sets the flag, a strobe leaves it as it is (R19). -/
theorem pollStrobe_ovf_of_fault (call : Nat) (hf : t.params.hwFaultNoOverflow = true) :
    (t.pollStrobe call).ovf = t.ovf := by
  simp [State.pollStrobe, State.polled, State.strobe, countStrobe_ovf, hf]

theorem Polling.pollStrobe (h : Polling call s n t) : Polling call s (n + 1) (t.pollStrobe call) := by
  have hset := pollStrobe_sameSettings call t
  exact {
    point := rfl
    variant := by rw [hset.params, h.variant]
    fault := by rw [hset.params, h.fault]
    configured := hset.configured.trans h.configured
    saved := by rw [hset.saved, h.saved]
    gie := hset.gie.trans h.gie
    phase := (pollStrobe_phase call t).trans h.phase
    ovf := (pollStrobe_ovf_of_fault call h.fault).trans h.ovf
    latch := pollStrobe_latchHolds call t
    edges := by rw [length_edgesOf_pollStrobe call h.configured, h.edges, Nat.add_assoc] }

/-- Every two micro-operations poll and strobe once more (R84). -/
theorem Polling.continues {m : State → Result} {ret : Nat}
    (hm : ∀ l u, u.point = .clock call l → m u = clockByte call ret l u) (h : Polling call s 0 t) (n : Nat) :
    ∃ u, Continues m (2 * n) t u ∧ Polling call s n u := by
  induction n with
  | zero => exact ⟨t, .refl t, h⟩
  | succ n ih =>
    obtain ⟨u, hu, hp⟩ := ih
    exact ⟨_, hu.trans (pollStrobe_continues hm hp.point hp.ovf hp.variant hp.configured hp.saved hp.latch),
      hp.pollStrobe⟩

/-! ### Up to the first section -/

/-- What `s` and the state `x` before `ClockByte()` have to do with each other for the loop to hang. -/
structure BeforeHang (call : Nat) (s x : State) : Prop where
  frame : SameSettings s x
  point : x.point = .clock call .clear
  latch : x.LatchHolds
  edges : (edgesOf x.history).length = (edgesOf s.history).length

/-- The section of the first byte is opened two micro-operations on. -/
theorem BeforeHang.polling {x : State} (h : BeforeHang call s x) (hv : s.params.variant = .usi)
    (hc : s.configured = true) (hf : s.params.hwFaultNoOverflow = true) : Polling call s 0 (x.opened call) where
  point := rfl
  variant := by rw [opened_params, h.frame.params, hv]
  fault := by rw [opened_params, h.frame.params, hf]
  configured := (opened_configured call x).trans (h.frame.configured.trans hc)
  saved := by simp
  gie := rfl
  phase := rfl
  ovf := by simp [State.opened, State.cleared]
  latch := by
    simpa [State.LatchHolds, State.opened, State.cleared, State.sck, State.cs0, State.ctrlByte] using h.latch
  edges := by
    have hnone : edgesOf [.regW .stat 0x40, .critEnter x.gie] = [] := rfl
    rw [← edgesOf_withoutPreempts, opened_history, edgesOf_append, edgesOf_withoutPreempts, hnone, List.append_nil,
      h.edges, Nat.add_zero]

/-- A run of a command that hangs: from `s` on it takes `k` micro-operations to open its first section. -/
theorem hangs_of_beforeHang {m : State → Result} {ret k : Nat} {x : State}
    (hm : ∀ l u, u.point = .clock call l → m u = clockByte call ret l u) (hrun : Continues m k s x)
    (h : BeforeHang call s x) (hv : s.params.variant = .usi) (hc : s.configured = true)
    (hf : s.params.hwFaultNoOverflow = true) (n : Nat) :
    ∃ t, Continues m (k + 2 + 2 * n) s t ∧ Polling call s n t := by
  have hopen := opened_continues hm h.point (by rw [h.frame.params, hv])
  obtain ⟨t, ht, hp⟩ := (h.polling hv hc hf).continues hm n
  exact ⟨t, (hrun.trans hopen).trans ht, hp⟩

/-- Loading the first byte of a single transfer. -/
theorem loaded_beforeHang (b : Byte) (s : State) :
    BeforeHang call s ((s.loaded b).goto (.clock call .clear)).passYield where
  frame := by constructor <;> simp [State.loaded]
  point := by simp
  latch := (passYield_sameBus _).latchHolds ((goto_sameBus _ _).latchHolds (loaded_latchHolds _ _))
  edges := by
    have hnone : edgesOf [.regW .data b] = [] := rfl
    rw [edgesOf_passYield]
    simp [State.loaded, hnone]

section
variable {addr : Addr} {count : Word}

/-- At the head of `XFERBUF`'s loop for the first time, with one byte in the buffer. -/
theorem BytesDone.beforeHang (h : BytesDone addr count s 0 t) (h1 : 1 = count.toNat) : BeforeHang 12 s t :=
  ⟨h.frame, h.point_last h1, h.latch, h.edges⟩

/-- At the head of `XFERBUF`'s loop for the first time, with a second byte to fetch. -/
theorem BytesDone.fetched_beforeHang (h : BytesDone addr count s 0 t) (nxt : Byte) :
    BeforeHang 7 s (t.fetched addr nxt).passYield where
  frame := h.frame.trans (fetched_sameSettings addr nxt t)
  point := by simp [State.fetched]
  latch := by simpa [State.fetched, State.LatchHolds, State.sck, State.cs0, State.ctrlByte] using h.latch
  edges := by
    have hnone (a : Addr) : edgesOf [.memR a nxt] = [] := rfl
    rw [edgesOf_passYield]
    simpa [State.fetched, hnone] using h.edges

/-- `XFERBUF` opens its first section after at most three micro-operations and two more (R84, R89). -/
theorem xferBuf_hangs (hs : s.AtRest) (hv : s.params.variant = .usi) (hc : s.configured = true)
    (hf : s.params.hwFaultNoOverflow = true) (h0 : count ≠ 0) (hb : addr.toNat + count.toNat ≤ 2 ^ 16)
    (hholds : bufferHolds s.mem addr count = true) :
    ∃ k call, k ≤ 5 ∧ ∀ n, ∃ t, Continues (microXferBuf addr count) (k + 2 * n) s t ∧ Polling call s n t := by
  have hpos : 0 < count.toNat := Nat.pos_of_ne_zero fun hz => h0 (BitVec.eq_of_toNat_eq hz)
  obtain ⟨hp, -, hph⟩ := hs
  obtain ⟨t, ht, hd, -⟩ := opening_continues hp hph hv hc h0 hb (memGet_bufferByte hholds hpos)
  rcases Nat.lt_or_ge 1 count.toNat with hmore | hone
  · have hn := (hd.fetch_mem (by omega)).trans (memGet_bufferByte hholds hmore)
    have hfetch := Continues.single (microXferBuf_fetch h0 (hd.point_line hmore) hn) (by simp [State.fetched])
    exact ⟨5, 7, le_rfl,
      hangs_of_beforeHang (microXferBuf_clock h0) (ht.trans hfetch) (hd.fetched_beforeHang _) hv hc hf⟩
  · exact ⟨4, 12, by omega,
      hangs_of_beforeHang (microXferBuf_clock_last h0) ht (hd.beforeHang (by omega)) hv hc hf⟩

end

/-- Every transfer of at least one byte opens its first section at most five micro-operations in, and hangs there. -/
theorem startsByte_hangs {i : Instr} (hs : s.AtRest) (hv : s.params.variant = .usi) (hc : s.configured = true)
    (hf : s.params.hwFaultNoOverflow = true) (hi : i.startsByte s = true) :
    ∃ k call, k ≤ 5 ∧ ∀ n, ∃ t, Continues (microOp i) (k + 2 * n) s t ∧ Polling call s n t := by
  cases i with
  | xfer8 v =>
    have hload : Continues (microXfer8 v) 1 s _ := .single (microXfer8_start hv hc hs.1) (by simp)
    exact ⟨3, 2, by omega, hangs_of_beforeHang microXfer8_clock hload (loaded_beforeHang _ s) hv hc hf⟩
  | xfer16 w =>
    have hload : Continues (microXfer16 w) 1 s _ := .single (microXfer16_start hv hc hs.1) (by simp)
    exact ⟨3, 2, by omega, hangs_of_beforeHang microXfer16_clock_high hload (loaded_beforeHang _ s) hv hc hf⟩
  | xferBuf addr count =>
    simp only [Instr.startsByte, Bool.and_eq_true, bne_iff_ne, decide_eq_true_eq] at hi
    obtain ⟨⟨h0, hb⟩, hholds⟩ := hi
    exact xferBuf_hangs hs hv hc hf h0 hb hholds
  | _ => cases hi

end

/-- The interrupt agent changes nothing that the start of a transfer rests on (R134). -/
theorem startsByte_passYield (i : Instr) (s : State) : i.startsByte s.passYield = i.startsByte s := by
  cases i with
  | xferBuf addr count => simp only [Instr.startsByte, passYield_mem]
  | _ => rfl

/-- Settles O47: the steps of the run are the micro-operations of the loop, as many as one asks for. -/
theorem hangNeverEnds : Obligations.HangNeverEnds := by
  intro s w i hs hv hc hf hfetch hd hi
  obtain ⟨k, call, hk, hhang⟩ := startsByte_hangs (s := s.passYield) (i := i) (by simpa [State.AtRest] using hs)
    (by simpa using hv) ((passYield_sameEngine s).configured.trans hc) (by simpa using hf)
    ((startsByte_passYield i s).trans hi)
  refine ⟨fun n => ?_, k, hk, fun n => ?_⟩
  · obtain ⟨t, ht, -⟩ := hhang (n + 1)
    have hsplit : k + 2 * (n + 1) = n + 1 + (k + (n + 1)) := by omega
    obtain ⟨u, hu⟩ := (hsplit ▸ ht).take
    obtain ⟨x, -, hrun, rfl, -, hcp, -⟩ := hu.exists_run hd rfl hfetch
    exact ⟨x, hrun, hcp, by simpa using hu.point_ne_idle n.succ_ne_zero⟩
  · obtain ⟨t, ht, hp⟩ := hhang n
    obtain ⟨x, -, hrun, rfl, -, hcp, -⟩ := ht.exists_run hd rfl hfetch
    have hedges := hp.edges
    rw [edgesOf_passYield, edgesOf_passYield] at hedges
    exact ⟨x, hrun, by simpa using hp.phase, by simpa using hp.gie, by simpa using hp.ovf, hcp, hedges⟩

end Sys2Proof.Machine
end

section
/-! The register-surface commands (spec/42_register_access.md R100 to R109): each is one access of one register, a
bit-set or bit-clear is one write, and what a write does is said register by register. -/

namespace Sys2Proof.Machine

open Sys2Proof.Config

/-! ### One access each -/

theorem complete_eq_completed (s : State) : s.complete = s.completed [] := by
  simp [State.complete, State.completed]

section
variable {r : Reg} {v m : Byte} {s : State}

/-- `WRREG` is one register write (R103, R109). -/
theorem exec_wrReg (hp : s.point = .idle) :
    exec (.wrReg r v) s = andThen (regWrite r v s) fun t => .next t.complete := single_idle hp

/-- `RDREG` of a register the variant has is one register read into `RET` (R102, R109). -/
theorem exec_rdReg (hp : s.point = .idle) (hr : regExists s.params.variant r = true) :
    exec (.rdReg r) s = .next ((s.noteRead r).setRet ((s.regValue r).setWidth 16)).complete :=
  (single_idle hp).trans (andThen_of_next (if_pos hr))

/-- `SETBITS` is `WRREG` of the value read, or-ed with the mask (R107). -/
theorem exec_setBits_eq_wrReg (hr : r.bitAccessible = true) :
    exec (.setBits r m) s = exec (.wrReg r (s.regValue r ||| m)) s := if_pos hr

/-- `CLRBITS` is `WRREG` of the value read, and-ed with the complement of the mask (R108). -/
theorem exec_clrBits_eq_wrReg (hr : r.bitAccessible = true) :
    exec (.clrBits r m) s = exec (.wrReg r (s.regValue r &&& ~~~m)) s := if_pos hr

/-- A register of the other variant is not written (R104). -/
theorem exec_wrReg_missing (hp : s.point = .idle) (hr : regExists s.params.variant r = false) :
    exec (.wrReg r v) s = .refused .noSuchRegister := by
  rw [exec_wrReg hp, regWrite, hr]
  rfl

/-- A register of the other variant is not read (R104). -/
theorem exec_rdReg_missing (hp : s.point = .idle) (hr : regExists s.params.variant r = false) :
    exec (.rdReg r) s = .refused .noSuchRegister := by
  refine (single_idle hp).trans ?_
  rw [regRead, hr]
  rfl

end

/-! ### The value read -/

/-- What a read leaves behind, in one equation for all registers (R20, R46, R100). -/
theorem noteRead_eq (r : Reg) (s : State) :
    s.noteRead r = { s with
      statDraws := if r = .stat then s.statDraws + 1 else s.statDraws
      history := s.history ++ [.regR r (s.regValue r)] } := by
  cases r <;> rfl

/-- The bits of the value that a read of `STAT` returns, as R17 and R100 place them. -/
theorem statByte_bits (d : BitVec 3) (o : Bool) (c : BitVec 4) :
    (statByte d o c).getLsbD 7 = d.getLsbD 2 ∧ (statByte d o c).extractLsb' 4 2 = d.extractLsb' 0 2 := by
  revert d o c
  decide

/-- `SREG` holds `GIE` in bit 7 and reads 0 below it (R26, R100). -/
theorem sregByte_bits (g : Bool) :
    (BitVec.ofBool g ++ 0#7 : Byte).getLsbD 7 = g ∧ (BitVec.ofBool g ++ 0#7 : Byte).extractLsb' 0 7 = 0 := by
  cases g <;> decide

/-- The stored bits of a complemented mask for `CTRL` are the complement of its stored bits (R108). -/
theorem extractLsb'_not_ctrl (m : Byte) : (~~~m).extractLsb' 1 7 = ~~~(m.extractLsb' 1 7) := by
  ext i hi
  have hlt : 1 + i < 8 := by omega
  simp [hlt]

/-! ### The write of each register -/

section
variable {v : Byte} {s : State}

/-- A write of `STAT` with bit 6 set clears the flag, and the low bits replace the counter (R17, R101). -/
theorem exec_wrReg_stat (hp : s.point = .idle) (hv : s.params.variant = .usi) :
    exec (.wrReg .stat v) s = .next (State.completed { s with
      ovf := if v.getLsbD 6 then false else s.ovf
      cnt := v.extractLsb' 0 4 } [.regW .stat v]) := by
  have hovf : (if v.getLsbD 6 then false else s.ovf) = (s.ovf && !v.getLsbD 6) := by
    cases v.getLsbD 6 <;> simp
  rw [exec_wrReg hp, regWrite, if_pos (by simp [regExists, hv]), hovf]
  rfl

/-- A write of `DATA` loads the shift register, and the latch follows where it is transparent (R22, R101). -/
theorem exec_wrReg_data (hp : s.point = .idle) (hv : s.params.variant = .usi) :
    exec (.wrReg .data v) s = .next (State.completed { s with
      dr := v
      dol := s.latched s.sck s.cs0 v } [.regW .data v]) := by
  rw [exec_wrReg hp, regWrite_data hv, State.loaded, relatch_eq_latched]
  rfl

theorem exec_wrReg_ddr (hp : s.point = .idle) :
    exec (.wrReg .ddr v) s = .next (State.completed { s with ddr := v } [.regW .ddr v]) := exec_wrReg hp

theorem exec_wrReg_sreg (hp : s.point = .idle) :
    exec (.wrReg .sreg v) s = .next (State.completed { s with gie := v.getLsbD 7 } [.regW .sreg v]) := exec_wrReg hp

theorem exec_wrReg_hctrl (hp : s.point = .idle) (hv : s.params.variant = .hwspi) :
    exec (.wrReg .hctrl v) s = .next (State.completed { s with hctrl := v } [.regW .hctrl v]) := by
  rw [exec_wrReg hp, regWrite, if_pos (by simp [regExists, hv])]
  rfl

/-- The model's test for a manual clock edge is the one R106 states; `CS1` is a bit of the USI variant alone. -/
theorem changesOwnedClock_iff : (s.clockOwned && (bitOf v s.params.pinSck != s.sck)) = true ↔
    s.params.variant = .usi ∧ s.cs1 = true ∧ bitOf v s.params.pinSck ≠ bitOf s.port s.params.pinSck := by
  simp [State.clockOwned, State.sck, and_assoc]

/-- A write of `PORT` is refused where it would make a clock edge by hand; else the latch follows (R22, R101, R106). -/
theorem exec_wrReg_port (hp : s.point = .idle) :
    exec (.wrReg .port v) s =
      (if s.params.variant = .usi ∧ s.cs1 = true ∧ bitOf v s.params.pinSck ≠ bitOf s.port s.params.pinSck
       then .refused .manualClockEdge
       else .next (State.completed { s with
        port := v
        dol := s.latched (bitOf v s.params.pinSck) s.cs0 s.dr } [.regW .port v])) := by
  have hw : regWrite .port v s = writePort v (s.emit (.regW .port v)) := rfl
  rw [exec_wrReg hp, hw, writePort]
  have howned := changesOwnedClock_iff (v := v) (s := s.emit (.regW .port v))
  by_cases hc : s.params.variant = .usi ∧ s.cs1 = true ∧ bitOf v s.params.pinSck ≠ bitOf s.port s.params.pinSck
  · rw [if_pos hc, if_pos (howned.mpr hc)]
    rfl
  · rw [if_neg hc, if_neg (mt howned.mp hc), relatch_eq_latched]
    rfl

/-- The setting that a write of `v` to `CTRL` leaves before it strobes: the stored bits, and the latch under the new
clock-source bit (R101, R105). -/
def State.ctrlWritten (v : Byte) (s : State) : State :=
  { s with
    ctrl := v.extractLsb' 1 7
    dol := s.latched s.sck (v.getLsbD 2) s.dr
    history := s.history ++ [.regW .ctrl v] }

theorem relatch_ctrlWritten (v : Byte) (s : State) :
    { s.emit (.regW .ctrl v) with ctrl := v.extractLsb' 1 7 }.relatch = s.ctrlWritten v := by
  have hcs0 : (v.extractLsb' 1 7).getLsbD 1 = v.getLsbD 2 := by simp
  rw [relatch_eq_latched, cs0_eq_ctrl_bit, hcs0]
  rfl

theorem ctrlWritten_clkCfg (v : Byte) (s : State) :
    (s.ctrlWritten v).clkCfg = (v.getLsbD 3 && v.getLsbD 1 && bitOf s.ddr s.params.pinSck) := by
  simp [State.clkCfg, cs1_eq_ctrl_bit, clk_eq_ctrl_bit, State.ctrlWritten]

/-- A write of `CTRL` in full: with bit 0 clear it stores, with bit 0 set it strobes under the setting it has stored
(R82, R101, R105). -/
theorem exec_wrReg_ctrl (hp : s.point = .idle) (hv : s.params.variant = .usi) :
    exec (.wrReg .ctrl v) s =
      if v.getLsbD 0 = false then .next ((s.ctrlWritten v).completed [])
      else if v.getLsbD 3 && v.getLsbD 1 && bitOf s.ddr s.params.pinSck then
        .next ((s.ctrlWritten v).strobe.completed [])
      else .refused .clockNotConfigured := by
  rw [exec_wrReg hp, regWrite, if_pos (by simp [regExists, hv]), writeEffect, writeCtrl, relatch_ctrlWritten,
    strobeOrRefuse, ctrlWritten_clkCfg]
  cases v.getLsbD 0 with
  | false => exact congrArg _ (complete_eq_completed _)
  | true =>
    cases v.getLsbD 3 && v.getLsbD 1 && bitOf s.ddr s.params.pinSck with
    | false => rfl
    | true => exact congrArg _ (complete_eq_completed _)

/-- A write of `CTRL` with the strobe bit clear completes with its bits stored (R101). -/
theorem exec_wrReg_ctrl_stored (hp : s.point = .idle) (hv : s.params.variant = .usi) (h0 : v.getLsbD 0 = false) :
    exec (.wrReg .ctrl v) s = .next (State.completed { s with
      ctrl := v.extractLsb' 1 7
      dol := s.latched s.sck (v.getLsbD 2) s.dr } [.regW .ctrl v]) := by
  rw [exec_wrReg_ctrl hp hv, if_pos h0]
  simp [State.ctrlWritten, State.completed]

/-- A write of `PORT` completes where it keeps the clock pin's bit, where `CS1` is 0 and without a USI peripheral
(R106). -/
theorem exec_wrReg_port_stored (hp : s.point = .idle)
    (h : bitOf v s.params.pinSck = bitOf s.port s.params.pinSck ∨ s.cs1 = false ∨ s.params.variant = .hwspi) :
    exec (.wrReg .port v) s = .next (State.completed { s with
      port := v
      dol := s.latched (bitOf v s.params.pinSck) s.cs0 s.dr } [.regW .port v]) := by
  refine (exec_wrReg_port hp).trans (if_neg ?_)
  rintro ⟨hv, h1, hk⟩
  rcases h with h | h | h
  · exact hk h
  · simp [h] at h1
  · simp [h] at hv

end

/-! ### The obligations -/

/-- Settles O21: the value read is `regValue`, whose bits R100 gives, and `noteRead` is all that a read leaves. -/
theorem readReturnsRegister : Obligations.ReadReturnsRegister := by
  intro r s hp hr
  refine ⟨s.regValue r, (exec_rdReg hp hr).trans ?_, ?_⟩
  · rw [noteRead_eq]
    simp [State.setRet, State.complete, State.completed, State.emit]
  · cases r with
    | ctrl => exact ⟨ctrlByte_strobe_bit s, ctrlByte_stored s⟩
    | stat => exact ⟨regValue_stat_flag s, regValue_stat_count s, statByte_bits _ _ _⟩
    | data | ddr | port | hctrl => rfl
    | sreg => exact sregByte_bits s.gie

/-- Settles O22: the writes of the seven registers, one by one. -/
theorem writeFollowsRegisterTable : Obligations.WriteFollowsRegisterTable := by
  intro v s hp
  exact ⟨exec_wrReg_ctrl hp, exec_wrReg_stat hp, exec_wrReg_data hp, exec_wrReg_ddr hp, exec_wrReg_port hp,
    exec_wrReg_sreg hp, exec_wrReg_hctrl hp⟩

/-- Settles O23: the old value is the one a read returns. -/
theorem bitOpsAreOneRegisterWrite : Obligations.BitOpsAreOneRegisterWrite := by
  intro r m s hb _ _
  refine ⟨s.regValue r, ?_, exec_setBits_eq_wrReg hb, exec_clrBits_eq_wrReg hb⟩
  cases r with
  | ctrl => exact ⟨ctrlByte_strobe_bit s, ctrlByte_stored s⟩
  | ddr | port | hctrl => rfl
  | sreg => exact sregByte_bits s.gie
  | stat | data => cases hb

/-- Settles O24: each bit-set is a write of the or-ed value, which keeps the strobe bit of `CTRL` clear. -/
theorem setBitsSetsMaskedBits : Obligations.SetBitsSetsMaskedBits := by
  intro m s hp
  refine ⟨fun hv h0 => ?_, (exec_setBits_eq_wrReg rfl).trans (exec_wrReg_ddr hp),
    fun hk => (exec_setBits_eq_wrReg rfl).trans (exec_wrReg_port_stored hp hk), ?_,
    fun hv => (exec_setBits_eq_wrReg rfl).trans (exec_wrReg_hctrl hp hv)⟩
  · have hstrobe : (s.ctrlByte ||| m).getLsbD 0 = false := by
      rw [BitVec.getLsbD_or, ctrlByte_strobe_bit, h0, Bool.or_false]
    have hstored : (s.ctrlByte ||| m).extractLsb' 1 7 = s.ctrl ||| m.extractLsb' 1 7 := by
      rw [BitVec.extractLsb'_or, ctrlByte_stored]
    have hcs0 : (s.ctrlByte ||| m).getLsbD 2 = (s.cs0 || m.getLsbD 2) := BitVec.getLsbD_or
    refine ⟨s.ctrlByte ||| m, hstrobe, hstored, ?_⟩
    rw [← hstored, ← hcs0]
    exact (exec_setBits_eq_wrReg rfl).trans (exec_wrReg_ctrl_stored hp hv hstrobe)
  · have hgie : (s.regValue .sreg ||| m).getLsbD 7 = (s.gie || m.getLsbD 7) := by
      rw [BitVec.getLsbD_or]
      exact congrArg (· || m.getLsbD 7) (sregByte_bits s.gie).1
    refine ⟨s.regValue .sreg ||| m, hgie, ?_⟩
    rw [← hgie]
    exact (exec_setBits_eq_wrReg rfl).trans (exec_wrReg_sreg hp)

/-- Settles O25: each bit-clear is a write of the masked value, in which the strobe bit of `CTRL` is clear. -/
theorem clrBitsClearsMaskedBits : Obligations.ClrBitsClearsMaskedBits := by
  intro m s hp
  refine ⟨fun hv => ?_, (exec_clrBits_eq_wrReg rfl).trans (exec_wrReg_ddr hp),
    fun hk => (exec_clrBits_eq_wrReg rfl).trans (exec_wrReg_port_stored hp hk), ?_,
    fun hv => (exec_clrBits_eq_wrReg rfl).trans (exec_wrReg_hctrl hp hv)⟩
  · have hstrobe : (s.ctrlByte &&& ~~~m).getLsbD 0 = false := by
      rw [BitVec.getLsbD_and, ctrlByte_strobe_bit, Bool.false_and]
    have hstored : (s.ctrlByte &&& ~~~m).extractLsb' 1 7 = s.ctrl &&& ~~~(m.extractLsb' 1 7) := by
      rw [BitVec.extractLsb'_and, ctrlByte_stored, extractLsb'_not_ctrl]
    have hcs0 : (s.ctrlByte &&& ~~~m).getLsbD 2 = (s.cs0 && !m.getLsbD 2) := by
      rw [BitVec.getLsbD_and, BitVec.getLsbD_not]
      rfl
    refine ⟨s.ctrlByte &&& ~~~m, hstrobe, hstored, ?_⟩
    rw [← hstored, ← hcs0]
    exact (exec_clrBits_eq_wrReg rfl).trans (exec_wrReg_ctrl_stored hp hv hstrobe)
  · have hgie : (s.regValue .sreg &&& ~~~m).getLsbD 7 = (s.gie && !m.getLsbD 7) := by
      rw [BitVec.getLsbD_and, BitVec.getLsbD_not]
      exact congrArg (· && !m.getLsbD 7) (sregByte_bits s.gie).1
    refine ⟨s.regValue .sreg &&& ~~~m, hgie, ?_⟩
    rw [← hgie]
    exact (exec_clrBits_eq_wrReg rfl).trans (exec_wrReg_sreg hp)

/-- Settles O27: the three commands write `PORT` once, and whether that write is refused is its test of the clock pin's
bit under `CS1`. -/
theorem manualClockEdgeRefused : Obligations.ManualClockEdgeRefused := by
  intro v s hp hv
  have hset : exec (.setBits .port v) s = exec (.wrReg .port (s.port ||| v)) s := exec_setBits_eq_wrReg rfl
  have hclr : exec (.clrBits .port v) s = exec (.wrReg .port (s.port &&& ~~~v)) s := exec_clrBits_eq_wrReg rfl
  rw [hset, hclr]
  refine ⟨fun h1 => ?_, fun h1 => ?_⟩
  · have hrefused (w : Byte) (hk : bitOf w s.params.pinSck ≠ bitOf s.port s.params.pinSck) :
        exec (.wrReg .port w) s = .refused .manualClockEdge := (exec_wrReg_port hp).trans (if_pos ⟨hv, h1, hk⟩)
    exact ⟨hrefused v, fun ⟨hm, hk⟩ => hrefused _ (by simp [hm, hk]),
      fun ⟨hm, hk⟩ => hrefused _ (by simp [hm, hk])⟩
  · have hfree (w : Byte) : ∃ t, exec (.wrReg .port w) s = .next t ∧ t.port = w :=
      ⟨_, exec_wrReg_port_stored hp (.inr (.inl h1)), rfl⟩
    exact ⟨hfree v, hfree _, hfree _⟩

/-- Settles O26: the register does not exist in the variant, which every access asks first. -/
theorem registerOfOtherVariantRefused : Obligations.RegisterOfOtherVariantRefused := by
  intro r v s hp h
  have hr : regExists s.params.variant r = false := by
    rcases h with ⟨hv, rfl | rfl | rfl⟩ | ⟨hv, rfl⟩ <;> simp [regExists, hv]
  exact ⟨exec_rdReg_missing hp hr, exec_wrReg_missing hp hr, fun hb =>
    ⟨(exec_setBits_eq_wrReg hb).trans (exec_wrReg_missing hp hr),
      (exec_clrBits_eq_wrReg hb).trans (exec_wrReg_missing hp hr)⟩⟩

end Sys2Proof.Machine
end

section
/-! The commands of the HWSPI variant (spec/43_hwspi_variant.md R113 to R125): the reference-counted `BEGIN` and `END`,
the interrupt-line bookkeeping, and what every other command leaves of the reference count, the enable bit and the
interrupt mode. -/

namespace Sys2Proof.Machine

open Sys2Proof.Config

/-! ### `END` of the HWSPI variant -/

section
variable {s : State}

theorem clrBits_hctrl (hv : s.params.variant = .hwspi) (m : Byte) :
    clrBits .hctrl m s = .next ({ s with hctrl := s.hctrl &&& ~~~m }.emit (.regW .hctrl (s.hctrl &&& ~~~m))) := by
  simp only [clrBits, regWrite, regExists, hv]
  rfl

/-- The second half of line 2b in one equation (R116). -/
theorem resetModeOnPowerDown_eq (s : State) : s.resetModeOnPowerDown = { s with
    interruptMode := if s.params.endResetsIntMode then .none else s.interruptMode } := by
  unfold State.resetModeOnPowerDown
  split <;> rfl

/-- After line 1 of `END` the command is inside its section. -/
theorem execEnd_of_enter (hp : s.point = .idle) (hv : s.params.variant = .hwspi) :
    exec .endCmd s = runCommand 3 microEnd (s.critEnter.goto (if s.initialized = 0 then .line 3 else .line 21)) := by
  have henter : microEnd s = .next (s.critEnter.goto (if s.initialized = 0 then .line 3 else .line 21)) := by
    simp only [microEnd, hv, microEndHw, hp]
  exact runCommand_masked (n := 2) henter (by simp; split <;> simp) rfl

/-- `END` without a reference enters its section and leaves it (R116). -/
theorem execEnd_unreferenced (hp : s.point = .idle) (hv : s.params.variant = .hwspi) (h0 : s.initialized = 0) :
    exec .endCmd s = .next (State.completed { s with saved := none } [.critEnter s.gie, .critExit s.gie]) := by
  rw [execEnd_of_enter hp hv, if_pos h0]
  simp [runCommand_succ, microEnd, microEndHw, hv, critExit, State.critEnter, State.goto, State.emit, State.complete,
    State.completed]

/-- `END` of the last reference powers down (R116). -/
theorem execEnd_last (hp : s.point = .idle) (hv : s.params.variant = .hwspi) (h1 : s.initialized = 1) :
    exec .endCmd s = .next (State.completed { s with
        initialized := 0
        hctrl := s.hctrl &&& 0xBF
        interruptMode := if s.params.endResetsIntMode then .none else s.interruptMode
        saved := none }
      [.critEnter s.gie, .regW .hctrl (s.hctrl &&& 0xBF), .critExit s.gie]) := by
  rw [execEnd_of_enter hp hv, if_neg (by simp [h1])]
  simp [runCommand_succ, microEnd, microEndHw, hv, h1, clrBits_hctrl, resetModeOnPowerDown_eq, critExit,
    passYield_masked, State.critEnter, State.goto, State.emit, State.complete, State.completed]

/-- `END` of an earlier reference gives it back and does nothing else (R116). -/
theorem execEnd_earlier (hp : s.point = .idle) (hv : s.params.variant = .hwspi) (h0 : s.initialized ≠ 0)
    (h1 : s.initialized ≠ 1) :
    exec .endCmd s = .next (State.completed { s with initialized := s.initialized - 1, saved := none }
      [.critEnter s.gie, .critExit s.gie]) := by
  rw [execEnd_of_enter hp hv, if_neg h0]
  simp [runCommand_succ, microEnd, microEndHw, hv, show s.initialized ≠ 1#8 from h1, critExit, passYield_masked,
    State.critEnter, State.goto, State.emit, State.complete, State.completed]

/-! ### The interrupt lines -/

/-- A command of one line `f` inside a section, where `f` may as well be done before it (R119, R121, R125). -/
theorem runCommand_guarded {m : State → Result} {f : State → State} (hp : s.point = .idle)
    (hm : ∀ t, t.params = s.params → m t = microGuarded f t)
    (hf : f (s.critEnter.goto (.line 2)) = (f s).critEnter.goto (.line 2)) (hfp : (f s).params = s.params) :
    runCommand 3 m s =
      .next (State.completed { f s with saved := none } [.critEnter (f s).gie, .critExit (f s).gie]) := by
  have hline1 : m s = .next (s.critEnter.goto (.line 2)) := by rw [hm s rfl, microGuarded, hp]
  have hline2 : m (s.critEnter.goto (.line 2)) = .next (((f s).critEnter.goto (.line 2)).goto (.line 3)) := by
    rw [hm (s.critEnter.goto (.line 2)) rfl]
    simp only [microGuarded, goto_point, hf]
  have hline3 : m (((f s).critEnter.goto (.line 2)).goto (.line 3)) =
      .next (State.completed { f s with saved := none } [.critEnter (f s).gie, .critExit (f s).gie]) := by
    rw [hm (((f s).critEnter.goto (.line 2)).goto (.line 3)) hfp]
    simp [microGuarded, critExit, State.critEnter, State.goto, State.emit, State.complete, State.completed]
  rw [runCommand_masked hline1 (by simp) rfl, runCommand_masked hline2 (by simp) rfl, runCommand_one, hline3]

/-- Line 2 of `USEINT` does not look at what line 1 has done. -/
theorem registerLine_critEnter (n : Byte) (p : Point) (s : State) :
    (s.critEnter.goto p).registerLine n = (s.registerLine n).critEnter.goto p := by
  cases h : intMask s.params n <;> simp only [State.registerLine, goto_params, critEnter_params, h] <;> rfl

/-- Line 2 of `NOUSEINT` does not look at what line 1 has done. -/
theorem deregisterLine_critEnter (n : Byte) (p : Point) (s : State) :
    (s.critEnter.goto p).deregisterLine n = (s.deregisterLine n).critEnter.goto p := by
  cases h : s.interruptMode <;> simp only [State.deregisterLine, goto_interruptMode, critEnter_interruptMode, h] <;> rfl

/-- `USEINT` is its line 2 inside a section (R119). -/
theorem exec_useInt (n : Byte) (hp : s.point = .idle) (hv : s.params.variant = .hwspi) :
    exec (.useInt n) s =
      .next (State.completed { s.registerLine n with saved := none } [.critEnter s.gie, .critExit s.gie]) := by
  have hm (t : State) (ht : t.params = s.params) : microUseInt n t = microGuarded (State.registerLine n) t := by
    simp only [microUseInt, ht, hv]
  have h := runCommand_guarded hp hm (registerLine_critEnter n _ s) (registerLine_params n s)
  rwa [registerLine_gie] at h

/-- `NOUSEINT` is its line 2 inside a section (R121). -/
theorem exec_noUseInt (n : Byte) (hp : s.point = .idle) (hv : s.params.variant = .hwspi) :
    exec (.noUseInt n) s =
      .next (State.completed { s.deregisterLine n with saved := none } [.critEnter s.gie, .critExit s.gie]) := by
  have hm (t : State) (ht : t.params = s.params) : microNoUseInt n t = microGuarded (State.deregisterLine n) t := by
    simp only [microNoUseInt, ht, hv]
  have h := runCommand_guarded hp hm (deregisterLine_critEnter n _ s) (deregisterLine_params n s)
  rwa [deregisterLine_gie] at h

theorem registerLine_of_some {n : Byte} {bit : Fin 8} (h : s.params.intMaskTable.lookup n = some bit) :
    s.registerLine n = { s with
      interruptMask := s.interruptMask ||| bitMask bit
      interruptMode := if s.interruptMode = .none then .lines else s.interruptMode } := by
  cases hm : s.interruptMode <;> simp [State.registerLine, intMask, h, hm]

theorem registerLine_of_none {n : Byte} (h : s.params.intMaskTable.lookup n = none) :
    s.registerLine n = { s with interruptMode := .all } := by
  simp [State.registerLine, intMask, h]

theorem deregisterLine_of_all {n : Byte} (h : s.interruptMode = .all) : s.deregisterLine n = s := by
  simp only [State.deregisterLine, h]

theorem deregisterLine_of_not_all {n : Byte} (h : s.interruptMode ≠ .all) :
    s.deregisterLine n = { s with
      interruptMask := s.maskWithout n
      interruptMode := if s.maskWithout n = 0 then .none else s.interruptMode } := by
  cases hm : s.interruptMode with
  | all => exact absurd hm h
  | none | lines => simp only [State.deregisterLine, hm]

/-- Mode `ALL` absorbs `USEINT` (R120). -/
theorem registerLine_all (n : Byte) (h : s.interruptMode = .all) : (s.registerLine n).interruptMode = .all := by
  cases hl : s.params.intMaskTable.lookup n with
  | none => rw [registerLine_of_none hl]
  | some bit => simp [registerLine_of_some hl, h]

end

/-! ### What the other commands leave alone -/

end Sys2Proof.Machine

namespace Sys2Proof

/-- The four commands whose HWSPI meaning is a lifecycle section (R125). -/
def Instr.isLifecycle : Instr → Bool
  | .beginCmd | .endCmd | .useInt _ | .noUseInt _ => true
  | .setMode _ | .xfer8 _ | .xfer16 _ | .xferBuf _ _ | .rdReg _ | .wrReg _ _ | .setBits _ _ | .clrBits _ _
  | .attachInt | .detachInt => false

end Sys2Proof

namespace Sys2Proof.Machine

open Sys2Proof.Config

/-- What the command `i` leaves alone where it is no lifecycle section: the reference count, the interrupt mode, and
`HCTRL` unless the register surface writes it. -/
structure KeepsDriver (i : Instr) (s t : State) : Prop where
  params : t.params = s.params
  initialized : t.initialized = s.initialized
  interruptMode : t.interruptMode = s.interruptMode
  hctrl : i.writtenReg ≠ some .hctrl → t.hctrl = s.hctrl

section
variable {i : Instr} {s t u : State}

theorem KeepsDriver.refl (s : State) : KeepsDriver i s s := ⟨rfl, rfl, rfl, fun _ => rfl⟩

theorem KeepsDriver.trans (h : KeepsDriver i s t) (g : KeepsDriver i t u) : KeepsDriver i s u :=
  ⟨g.params.trans h.params, g.initialized.trans h.initialized, g.interruptMode.trans h.interruptMode,
    fun hw => (g.hctrl hw).trans (h.hctrl hw)⟩

theorem goto_keepsDriver (p : Point) (s : State) : KeepsDriver i s (s.goto p) := ⟨rfl, rfl, rfl, fun _ => rfl⟩

theorem complete_keepsDriver (s : State) : KeepsDriver i s s.complete := ⟨rfl, rfl, rfl, fun _ => rfl⟩

theorem passYield_keepsDriver (s : State) : KeepsDriver i s s.passYield := by constructor <;> simp

theorem regWrite_keepsDriver {r : Reg} {v : Byte} (hr : i.writtenReg ≠ some .hctrl → r ≠ .hctrl)
    (h : regWrite r v s = .next t) : KeepsDriver i s t :=
  have f := regWrite_frame h
  ⟨f.params, f.initialized, f.interruptMode, fun hw => (regWrite_writesOnly h).hctrl (hr hw)⟩

/-- A register write and the command's own bookkeeping. -/
theorem regWrite_andThen_keepsDriver {r : Reg} {v : Byte} {g : State → State}
    (hr : i.writtenReg ≠ some .hctrl → r ≠ .hctrl) (hg : ∀ u, KeepsDriver i u (g u))
    (h : andThen (regWrite r v s) (fun u => .next (g u)) = .next t) : KeepsDriver i s t := by
  obtain ⟨u, hu, hk⟩ := andThen_eq_next h
  cases hk
  exact (regWrite_keepsDriver hr hu).trans (hg u)

/-- A command that is one register write. -/
theorem single_regWrite_keepsDriver {r : Reg} {v : State → Byte} (hr : i.writtenReg ≠ some .hctrl → r ≠ .hctrl)
    (h : single (fun u => regWrite r (v u) u) s = .next t) : KeepsDriver i s t := by
  obtain ⟨-, u, hu, rfl⟩ := single_eq_next h
  exact (regWrite_keepsDriver hr hu).trans (complete_keepsDriver u)

theorem microBeginUsi_keepsDriver (h : microBeginUsi s = .next t) : KeepsDriver i s t := by
  unfold microBeginUsi at h
  split at h
  · exact regWrite_andThen_keepsDriver (by simp) (goto_keepsDriver _) h
  · exact regWrite_andThen_keepsDriver (by simp) (goto_keepsDriver _) h
  · exact regWrite_andThen_keepsDriver (by simp) (goto_keepsDriver _) h
  · exact regWrite_andThen_keepsDriver (by simp) (goto_keepsDriver _) h
  · exact regWrite_andThen_keepsDriver (by simp) complete_keepsDriver h
  · cases h
  · cases h

theorem execSetMode_keepsDriver {m : DataMode} (h : execSetMode m s = .next t) : KeepsDriver i s t := by
  unfold execSetMode at h
  split at h
  · obtain ⟨-, u, hu, rfl⟩ := single_eq_next h
    have hm : KeepsDriver i s { s with dataMode := m } := ⟨rfl, rfl, rfl, fun _ => rfl⟩
    split at hu <;> exact hm.trans ((regWrite_keepsDriver (by simp) hu).trans (complete_keepsDriver u))
  · cases h

theorem execRdReg_keepsDriver {r : Reg} (h : execRdReg r s = .next t) : KeepsDriver i s t := by
  obtain ⟨-, u, hu, rfl⟩ := single_eq_next h
  obtain ⟨-, hk⟩ := regRead_eq_next hu
  cases hk
  constructor <;> simp

theorem SameEngine.keepsDriver (h : SameEngine s t) : KeepsDriver i s t :=
  ⟨h.params, h.initialized, h.interruptMode, fun _ => h.hctrl⟩

theorem microOp_keepsDriver (hi : i.isLifecycle = true → s.params.variant = .usi) (h : microOp i s = .next t) :
    KeepsDriver i s t := by
  cases i with
  | beginCmd =>
    simp only [microOp, microBegin, hi rfl] at h
    exact microBeginUsi_keepsDriver h
  | endCmd =>
    simp only [microOp, microEnd, hi rfl] at h
    exact single_regWrite_keepsDriver (by simp) h
  | useInt n =>
    simp only [microOp, microUseInt, hi rfl] at h
    cases h
  | noUseInt n =>
    simp only [microOp, microNoUseInt, hi rfl] at h
    cases h
  | setMode m => exact execSetMode_keepsDriver h
  | xfer8 _ | xfer16 _ | xferBuf _ _ => exact (microOp_sameEngine rfl h).keepsDriver
  | rdReg r => exact execRdReg_keepsDriver h
  | wrReg r v => exact single_regWrite_keepsDriver (v := fun _ => v) (by simp [Instr.writtenReg]) h
  | setBits r m =>
    simp only [microOp, exec, execSetBits] at h
    split at h
    · exact single_regWrite_keepsDriver (by simp [Instr.writtenReg]) h
    · cases h
  | clrBits r m =>
    simp only [microOp, exec, execClrBits] at h
    split at h
    · exact single_regWrite_keepsDriver (by simp [Instr.writtenReg]) h
    · cases h
  | attachInt => exact absurd h (undescribed_ne_next s t)
  | detachInt => exact absurd h (undescribed_ne_next s t)

/-- Outside the lifecycle sections a command keeps what each of its micro-operations keeps. -/
theorem exec_keepsDriver (hi : i.isLifecycle = true → s.params.variant = .usi) (h : exec i s = .next t) :
    KeepsDriver i s t := by
  rw [exec_eq_runCommand] at h
  exact runCommand_keeps (P := KeepsDriver i s)
    (fun a b ha hab => ha.trans (microOp_keepsDriver (fun hl => ha.params ▸ hi hl) hab))
    (fun a ha => ha.trans (passYield_keepsDriver a)) _ s t (.refl s) h

end

/-! ### The reference count and the enable bit -/

/-- The peripheral is enabled exactly while a reference is held (R117). -/
def State.EnabledFits (s : State) : Prop := s.spe = true ↔ 0 < s.initialized.toNat

section
variable {i : Instr} {s t : State}

/-- The enable bit and whether a reference is held are all that the invariant rests on. -/
theorem State.EnabledFits.congr (h : s.EnabledFits) (hh : t.hctrl = s.hctrl)
    (hi : 0 < t.initialized.toNat ↔ 0 < s.initialized.toNat) : t.EnabledFits := by
  rwa [State.EnabledFits, State.spe, hh, hi]

/-- `BEGIN` enables on the first reference and counts one more (R114, R117). -/
theorem execBegin_driver (hp : s.point = .idle) (hv : s.params.variant = .hwspi) (h : exec .beginCmd s = .next t) :
    (s.EnabledFits → t.EnabledFits) ∧ t.initialized.toNat = s.initialized.toNat + 1 ∧
    t.interruptMode = s.interruptMode := by
  by_cases h0 : s.initialized = 0
  · rw [execBegin_first hp hv h0] at h
    cases h
    exact ⟨fun _ => by simp [State.EnabledFits, State.spe, State.completed], by simp [State.completed, h0], rfl⟩
  · by_cases hsat : s.initialized = 255
    · rw [execBegin_saturated hp hv hsat] at h
      cases h
    · rw [execBegin_later hp hv h0 hsat] at h
      cases h
      have hcount : (s.initialized + 1).toNat = s.initialized.toNat + 1 := by bv_omega
      have hpos : 0 < (s.initialized + 1).toNat ↔ 0 < s.initialized.toNat := by bv_omega
      exact ⟨fun hs => hs.congr rfl hpos, hcount, rfl⟩

/-- `END` disables on the last reference, where it may reset the interrupt mode, and counts one less unless there is
none (R116, R117). -/
theorem execEnd_driver (hp : s.point = .idle) (hv : s.params.variant = .hwspi) (h : exec .endCmd s = .next t) :
    (s.EnabledFits → t.EnabledFits) ∧ t.initialized.toNat = s.initialized.toNat - 1 ∧
    (t.interruptMode = s.interruptMode ∨
      (s.params.endResetsIntMode = true ∧ s.initialized = 1 ∧ t.interruptMode = .none)) := by
  by_cases h0 : s.initialized = 0
  · rw [execEnd_unreferenced hp hv h0] at h
    cases h
    exact ⟨fun hs => hs.congr rfl .rfl, by simp [State.completed, h0], .inl rfl⟩
  · by_cases h1 : s.initialized = 1
    · rw [execEnd_last hp hv h1] at h
      cases h
      refine ⟨fun _ => by simp [State.EnabledFits, State.spe, State.completed], by simp [State.completed, h1], ?_⟩
      cases hr : s.params.endResetsIntMode with
      | false => exact .inl (by simp [State.completed])
      | true => exact .inr ⟨rfl, h1, by simp [State.completed]⟩
    · rw [execEnd_earlier hp hv h0 h1] at h
      cases h
      have hcount : (s.initialized - 1).toNat = s.initialized.toNat - 1 := by bv_omega
      have hpos : 0 < (s.initialized - 1).toNat ↔ 0 < s.initialized.toNat := by bv_omega
      exact ⟨fun hs => hs.congr rfl hpos, hcount, .inl rfl⟩

/-- No command but `BEGIN` and `END` counts, and only the register surface writes the enable bit besides (R117). -/
theorem exec_keepsCount (hp : s.point = .idle) (hv : s.params.variant = .hwspi) (hb : i ≠ .beginCmd)
    (he : i ≠ .endCmd) (h : exec i s = .next t) :
    t.initialized = s.initialized ∧ (i.writtenReg ≠ some .hctrl → t.hctrl = s.hctrl) := by
  cases i with
  | beginCmd => exact absurd rfl hb
  | endCmd => exact absurd rfl he
  | useInt n =>
    rw [exec_useInt n hp hv] at h
    cases h
    simp [State.completed]
  | noUseInt n =>
    rw [exec_noUseInt n hp hv] at h
    cases h
    simp [State.completed]
  | _ =>
    have hk := exec_keepsDriver (by simp [Instr.isLifecycle]) h
    exact ⟨hk.initialized, hk.hctrl⟩

/-- Mode `ALL` outlasts every command of a lifecycle section but the `END` that resets it (R116, R120). -/
theorem lifecycle_all (hp : s.point = .idle) (hv : s.params.variant = .hwspi) (hi : i.isLifecycle = true)
    (ha : s.interruptMode = .all) (h : exec i s = .next t) :
    t.interruptMode = .all ∨
      (i = .endCmd ∧ s.params.endResetsIntMode = true ∧ s.initialized = 1 ∧ t.interruptMode = .none) := by
  cases i with
  | beginCmd =>
    obtain ⟨-, -, hmode⟩ := execBegin_driver hp hv h
    exact .inl (hmode.trans ha)
  | endCmd =>
    obtain ⟨-, -, hmode | ⟨hreset, h1, hnone⟩⟩ := execEnd_driver hp hv h
    · exact .inl (hmode.trans ha)
    · exact .inr ⟨rfl, hreset, h1, hnone⟩
  | useInt n =>
    rw [exec_useInt n hp hv] at h
    cases h
    exact .inl (registerLine_all n ha)
  | noUseInt n =>
    rw [exec_noUseInt n hp hv, deregisterLine_of_all ha] at h
    cases h
    exact .inl ha
  | _ => cases hi

/-- A `PORT` write of the HWSPI variant is no manual clock edge, wherever it is asked for (R106, R113). -/
theorem exec_wrReg_port_hwspi (hv : s.params.variant = .hwspi) (v : Byte) :
    exec (.wrReg .port v) s ≠ .refused .manualClockEdge := by
  cases hp : s.point with
  | idle => simp [exec_wrReg_port_stored hp (.inr (.inr hv))]
  | line _ | clock _ _ => simp [exec, execWrReg, single, hp]

end

/-! ### The obligations -/

/-- A command that closes its section leaves none open, which is how it found the state at rest. -/
theorem with_saved_none {s : State} (h : s.saved = none) : { s with saved := none } = s := by rw [← h]

/-- Settles O48: the state after each of the two cases is known, and no section was open before. -/
theorem hwBeginSetsUpOnFirstReference : Obligations.HwBeginSetsUpOnFirstReference := by
  rintro s ⟨hp, hsaved, -⟩ hv -
  have henable : s.hctrl ||| 0x10 ||| 0x40 = s.hctrl ||| 0x50 := BitVec.or_assoc ..
  refine ⟨fun h0 => ?_, fun h0 hsat => ?_⟩
  · simpa only [henable, hsaved] using execBegin_first hp hv h0
  · simpa only [hsaved] using execBegin_later hp hv h0 hsat

/-- Settles O49: line 1 of `BEGIN` asks for the count first. -/
theorem hwBeginSaturates : Obligations.HwBeginSaturates := fun _ => execBegin_saturated

/-- Settles O50: the state after each of the three cases is known, and no section was open before. -/
theorem hwEndPowersDownOnLastReference : Obligations.HwEndPowersDownOnLastReference := by
  rintro s ⟨hp, hsaved, -⟩ hv
  refine ⟨fun h0 => ?_, fun h1 => ?_, fun h0 h1 => ?_⟩
  · rw [execEnd_unreferenced hp hv h0, with_saved_none hsaved]
  · simpa only [hsaved] using execEnd_last hp hv h1
  · simpa only [hsaved] using execEnd_earlier hp hv h0 h1

/-- Settles O51: `BEGIN` and `END` count and switch the enable bit together, and the other commands leave both alone. -/
theorem enabledIffReferenced : Obligations.EnabledIffReferenced := by
  rintro i s t hv ⟨hp, -, -⟩ h
  by_cases hb : i = .beginCmd
  · subst hb
    obtain ⟨hfits, hcount, -⟩ := execBegin_driver hp hv h
    exact ⟨fun _ => hfits, by simpa using hcount⟩
  · by_cases he : i = .endCmd
    · subst he
      obtain ⟨hfits, hcount, -⟩ := execEnd_driver hp hv h
      exact ⟨fun _ => hfits, by simpa using hcount⟩
    · obtain ⟨hcount, hhctrl⟩ := exec_keepsCount hp hv hb he h
      exact ⟨fun hw hs => State.EnabledFits.congr hs (hhctrl hw) (by rw [hcount]), by simp [hb, he, hcount]⟩

/-- Settles O52: `USEINT` is its line 2 in a section, which is known for both kinds of index. -/
theorem useIntRegistersLine : Obligations.UseIntRegistersLine := by
  rintro n s ⟨hp, hsaved, -⟩ hv
  refine ⟨fun bit h => ?_, fun h => ?_⟩
  · simpa only [registerLine_of_some h, hsaved] using exec_useInt n hp hv
  · simpa only [registerLine_of_none h, hsaved] using exec_useInt n hp hv

/-- Settles O53: `NOUSEINT` is its line 2 in a section, which is known in mode `ALL` and in the others. -/
theorem noUseIntDeregistersLine : Obligations.NoUseIntDeregistersLine := by
  rintro n s ⟨hp, hsaved, -⟩ hv kept
  have hkept : s.maskWithout n = kept := by
    cases h : s.params.intMaskTable.lookup n <;> simp [State.maskWithout, intMask, kept, h]
  refine ⟨fun ha => ?_, fun ha => ?_⟩
  · rw [exec_noUseInt n hp hv, deregisterLine_of_all ha, with_saved_none hsaved]
  · simpa only [deregisterLine_of_not_all ha, hkept, hsaved] using exec_noUseInt n hp hv

/-- Settles O54: nothing outside the lifecycle sections writes the mode, and of those only that `END` leaves `ALL`. -/
theorem allModeAbsorbs : Obligations.AllModeAbsorbs := by
  intro i s t hp ha h
  by_cases hl : i.isLifecycle = true ∧ s.params.variant = .hwspi
  · obtain ⟨hi, hv⟩ := hl
    rcases lifecycle_all hp hv hi ha h with hall | ⟨he, hreset, h1, hnone⟩
    · exact .inl hall
    · exact .inr ⟨he, hv, hreset, h1, hnone⟩
  · have hi : i.isLifecycle = true → s.params.variant = .usi := fun hi => by
      cases hv : s.params.variant with
      | usi => rfl
      | hwspi => exact absurd ⟨hi, hv⟩ hl
    exact .inl ((exec_keepsDriver hi h).interruptMode.trans ha)

/-- Settles O55: the first micro-operation is refused, and a write of `PORT` only in the USI variant. -/
theorem commandsOutsideVariantRefused : Obligations.CommandsOutsideVariantRefused := by
  refine fun n m s => ⟨fun hv => ⟨?_, ?_⟩, fun hv => ⟨?_, exec_wrReg_port_hwspi hv n, ?_, ?_⟩⟩
  · exact exec_refused (by simp only [microOp, microUseInt, hv])
  · exact exec_refused (by simp only [microOp, microNoUseInt, hv])
  · simp only [exec, execSetMode, hv]
  · rw [exec_setBits_eq_wrReg rfl]
    exact exec_wrReg_port_hwspi hv _
  · rw [exec_clrBits_eq_wrReg rfl]
    exact exec_wrReg_port_hwspi hv _

/-- Settles O56: both commands are `undescribed`, and the variant names the reason. -/
theorem attachAndDetachRefused : Obligations.AttachAndDetachRefused := by
  refine ⟨rfl, rfl, fun s => ⟨fun hv => ?_, fun hv => ?_⟩⟩
  · simp only [exec, execAttachInt, execDetachInt, undescribed, hv, and_self]
  · simp only [exec, execAttachInt, execDetachInt, undescribed, hv, and_self]

end Sys2Proof.Machine
end

section
/-! The interrupt-enable flag (spec/60_exceptions.md R134, R137, R138, R141): what the interrupt agent leaves of the
machine, and the flag as the code around a critical section knows it, which every command keeps. -/

namespace Sys2Proof.Machine

/-- The flag outside the critical section: what an open section restores at its end, else the flag itself. -/
def State.outerGie (s : State) : Bool := s.saved.getD s.gie

section
variable {i : Instr} {s t : State}

/-! ### What the operations keep of it -/

theorem outerGie_congr (hsaved : t.saved = s.saved) (hgie : t.gie = s.gie) : t.outerGie = s.outerGie := by
  simp only [State.outerGie, hsaved, hgie]

theorem outerGie_of_saved_none (h : s.saved = none) : s.outerGie = s.gie := by
  simp only [State.outerGie, h, Option.getD_none]

/-- Entering a section saves the flag, so no other section may be open (R137). -/
theorem critEnter_outerGie (h : s.saved = none) : s.critEnter.outerGie = s.outerGie := (outerGie_of_saved_none h).symm

theorem critExit_outerGie (h : critExit s = .next t) : t.outerGie = s.outerGie := by
  obtain ⟨g, hg, rfl⟩ := critExit_eq_next h
  simp [State.outerGie, hg]

theorem regWrite_outerGie {r : Reg} {v : Byte} (hr : r ≠ .sreg) (h : regWrite r v s = .next t) :
    t.outerGie = s.outerGie :=
  outerGie_congr (regWrite_frame h).saved ((regWrite_writesOnly h).gie hr)

/-! ### The shapes of a micro-operation -/

/-- An operation, and then the command's own bookkeeping, which writes no flag. -/
theorem andThen_outerGie {o : Result} {g : State → State} (ho : ∀ u, o = .next u → u.outerGie = s.outerGie)
    (h : andThen o (fun u => .next (g u)) = .next t) (hg : ∀ u, (g u).outerGie = u.outerGie) :
    t.outerGie = s.outerGie := by
  obtain ⟨u, hu, hk⟩ := andThen_eq_next h
  cases hk
  exact (hg u).trans (ho u hu)

theorem regWrite_goto_outerGie {r : Reg} {v : Byte} {p : Point} (hr : r ≠ .sreg)
    (h : andThen (regWrite r v s) (fun u => .next (u.goto p)) = .next t) : t.outerGie = s.outerGie :=
  andThen_outerGie (fun _ => regWrite_outerGie hr) h fun _ => rfl

theorem critExit_complete_outerGie (h : andThen (critExit s) (fun u => .next u.complete) = .next t) :
    t.outerGie = s.outerGie := andThen_outerGie (fun _ => critExit_outerGie) h fun _ => rfl

/-- A register read whose value goes into a local. -/
theorem regRead_setLocals_outerGie {r : Reg} {l : Byte → State → Locals} {p : Point}
    (h : regRead r (fun v u => .next ((u.setLocals (l v u)).goto p)) s = .next t) : t.outerGie = s.outerGie := by
  obtain ⟨-, hk⟩ := regRead_eq_next h
  cases hk
  exact outerGie_congr (by simp) (by simp)

/-- A memory read whose value goes into a local. -/
theorem memRead_setLocals_outerGie {a : Addr} {l : Byte → State → Locals} {p : Point}
    (h : memRead a (fun v u => .next ((u.setLocals (l v u)).goto p)) s = .next t) : t.outerGie = s.outerGie := by
  obtain ⟨v, -, hk⟩ := memRead_eq_next h
  cases hk
  rfl

theorem single_outerGie {f : State → Result} (hf : ∀ u, f s = .next u → u.outerGie = s.outerGie)
    (h : single f s = .next t) : t.outerGie = s.outerGie := by
  obtain ⟨-, u, hu, rfl⟩ := single_eq_next h
  exact hf u hu

/-! ### The micro-operations, command by command -/

theorem microBeginUsi_outerGie (h : microBeginUsi s = .next t) : t.outerGie = s.outerGie := by
  unfold microBeginUsi at h
  split at h
  · exact regWrite_goto_outerGie (by simp) h
  · exact regWrite_goto_outerGie (by simp) h
  · exact regWrite_goto_outerGie (by simp) h
  · exact regWrite_goto_outerGie (by simp) h
  · exact andThen_outerGie (fun _ => regWrite_outerGie (by simp)) h fun _ => rfl
  · cases h
  · cases h

theorem microBeginHw_outerGie (hs : Sequenced i s) (h : microBeginHw s = .next t) : t.outerGie = s.outerGie := by
  unfold microBeginHw at h
  split at h
  · next hq =>
    split at h
    · cases h
    · cases h
      exact critEnter_outerGie (hs.saved_none rfl hq rfl)
  · exact regWrite_goto_outerGie (by simp) h
  · exact regWrite_goto_outerGie (by simp) h
  · exact regWrite_goto_outerGie (by simp) h
  · exact regWrite_goto_outerGie (by simp) h
  · exact regWrite_goto_outerGie (by simp) h
  · exact regWrite_goto_outerGie (by simp) h
  · cases h
    rfl
  · exact critExit_complete_outerGie h
  · cases h
  · cases h

theorem microEndHw_outerGie (hs : Sequenced i s) (h : microEndHw s = .next t) : t.outerGie = s.outerGie := by
  unfold microEndHw at h
  split at h
  · next hq =>
    cases h
    exact critEnter_outerGie (hs.saved_none rfl hq rfl)
  · cases h
    rfl
  · exact andThen_outerGie (fun _ => regWrite_outerGie (by simp)) h fun _ => outerGie_congr (by simp) (by simp)
  · exact critExit_complete_outerGie h
  · cases h
  · cases h

theorem execSetMode_outerGie {m : DataMode} (h : execSetMode m s = .next t) : t.outerGie = s.outerGie := by
  unfold execSetMode at h
  split at h
  · refine single_outerGie (fun u hu => ?_) h
    have hg : u.outerGie = State.outerGie { s with dataMode := m } := by
      split at hu <;> exact regWrite_outerGie (by simp) hu
    exact hg
  · cases h

/-- One line of `ClockByte()`: its line 2 enters the section, its line 6 leaves it (R83). -/
theorem clockByte_outerGie {call ret : Nat} {l : ByteLine} (hs : Sequenced i s) (hq : s.point = .clock call l)
    (h : clockByte call ret l s = .next t) : t.outerGie = s.outerGie := by
  rcases clockByte_eq_next h with ⟨-, u, hu, rfl⟩ | ⟨rfl, rfl⟩ | ⟨-, -, rfl⟩ | ⟨-, -, rfl⟩ | ⟨-, u, hu, rfl⟩ |
    ⟨-, u, hu, rfl⟩
  · exact regWrite_outerGie (t := u) (by simp) hu
  · exact critEnter_outerGie (hs.saved_none rfl hq rfl)
  · exact outerGie_congr (by simp) (by simp)
  · exact outerGie_congr (by simp) (by simp)
  · exact regWrite_outerGie (t := u) (by simp) hu
  · exact critExit_outerGie (t := u) hu

theorem microXfer8_outerGie {v : Byte} (hs : Sequenced i s) (h : microXfer8 v s = .next t) :
    t.outerGie = s.outerGie := by
  unfold microXfer8 at h
  split at h
  · obtain ⟨-, -, hb⟩ := admitTransfer_eq_next h
    exact regWrite_goto_outerGie (by simp) hb
  · next hq => exact clockByte_outerGie hs hq h
  · exact regRead_setLocals_outerGie h
  · cases h
    rfl
  · cases h
  · cases h

theorem microXfer16_outerGie {w : Word} (hs : Sequenced i s) (h : microXfer16 w s = .next t) :
    t.outerGie = s.outerGie := by
  unfold microXfer16 at h
  split at h
  · obtain ⟨-, -, hb⟩ := admitTransfer_eq_next h
    exact regWrite_goto_outerGie (by simp) hb
  · next hq => exact clockByte_outerGie hs hq h
  · exact regRead_setLocals_outerGie h
  · exact regWrite_goto_outerGie (by simp) h
  · next hq => exact clockByte_outerGie hs hq h
  · exact regRead_setLocals_outerGie h
  · cases h
    rfl
  · cases h
  · cases h

theorem microBuffer_outerGie {addr : Addr} {count : Word} (hs : Sequenced i s)
    (h : microBuffer addr count s = .next t) : t.outerGie = s.outerGie := by
  unfold microBuffer at h
  split at h
  · obtain ⟨-, -, ha⟩ := admitTransfer_eq_next h
    obtain ⟨-, hb⟩ := admitBuffer_eq_next ha
    exact memRead_setLocals_outerGie hb
  · exact andThen_outerGie (fun _ => regWrite_outerGie (by simp)) h fun _ => rfl
  · exact memRead_setLocals_outerGie h
  · next hq => exact clockByte_outerGie hs hq h
  · exact regRead_setLocals_outerGie h
  · exact regWrite_goto_outerGie (by simp) h
  · cases h
    rfl
  · next hq => exact clockByte_outerGie hs hq h
  · exact regRead_setLocals_outerGie h
  · cases h
    rfl
  · cases h
  · cases h

theorem microXferBuf_outerGie {addr : Addr} {count : Word} (hs : Sequenced i s)
    (h : microXferBuf addr count s = .next t) : t.outerGie = s.outerGie := by
  unfold microXferBuf at h
  split at h
  · rw [emptyTransfer_eq_next h]
    rfl
  · exact microBuffer_outerGie hs h

theorem execRdReg_outerGie {r : Reg} (h : execRdReg r s = .next t) : t.outerGie = s.outerGie := by
  refine single_outerGie (fun u hu => ?_) h
  obtain ⟨-, hk⟩ := regRead_eq_next hu
  cases hk
  exact outerGie_congr (by simp) (by simp)

theorem microGuarded_outerGie {f : State → State} (hf : (f s).outerGie = s.outerGie) (hs : Sequenced i s)
    (h : microGuarded f s = .next t) : t.outerGie = s.outerGie := by
  unfold microGuarded at h
  split at h
  · next hq =>
    cases h
    exact critEnter_outerGie (hs.saved_none rfl hq rfl)
  · cases h
    exact hf
  · exact critExit_complete_outerGie h
  · cases h
  · cases h

/-- Every micro-operation enters its section where none is open, leaves it with what it saved, or writes no flag. -/
theorem microOp_outerGie (hw : i.writtenReg ≠ some .sreg) (hs : Sequenced i s) (h : microOp i s = .next t) :
    t.outerGie = s.outerGie := by
  cases i with
  | beginCmd =>
    simp only [microOp, microBegin] at h
    split at h
    · exact microBeginUsi_outerGie h
    · exact microBeginHw_outerGie hs h
  | endCmd =>
    simp only [microOp, microEnd] at h
    split at h
    · exact single_outerGie (fun _ => regWrite_outerGie (by simp)) h
    · exact microEndHw_outerGie hs h
  | setMode m => exact execSetMode_outerGie h
  | xfer8 v => exact microXfer8_outerGie hs h
  | xfer16 w => exact microXfer16_outerGie hs h
  | xferBuf addr count => exact microXferBuf_outerGie hs h
  | rdReg r => exact execRdReg_outerGie h
  | wrReg r v => exact single_outerGie (fun _ => regWrite_outerGie (by simpa [Instr.writtenReg] using hw)) h
  | setBits r m =>
    simp only [microOp, exec, execSetBits] at h
    split at h
    · exact single_outerGie (fun _ => regWrite_outerGie (by simpa [Instr.writtenReg] using hw)) h
    · cases h
  | clrBits r m =>
    simp only [microOp, exec, execClrBits] at h
    split at h
    · exact single_outerGie (fun _ => regWrite_outerGie (by simpa [Instr.writtenReg] using hw)) h
    · cases h
  | useInt n =>
    simp only [microOp, microUseInt] at h
    split at h
    · cases h
    · exact microGuarded_outerGie (outerGie_congr (by simp) (by simp)) hs h
  | noUseInt n =>
    simp only [microOp, microNoUseInt] at h
    split at h
    · cases h
    · exact microGuarded_outerGie (outerGie_congr (by simp) (by simp)) hs h
  | attachInt => exact absurd h (undescribed_ne_next s t)
  | detachInt => exact absurd h (undescribed_ne_next s t)

/-! ### The command -/

/-- A state at rest is one of every command's before its first micro-operation. -/
theorem State.AtRest.sequenced (h : s.AtRest) : Sequenced i s := by
  obtain ⟨hp, hsaved, hph⟩ := h
  exact ⟨by simp [hsaved, hp, Point.inSection], by simp [hsaved], by simp [hph, hp, Point.phase], absurd hp⟩

/-- The interrupt agent's events touch nothing of the sequencer (R134). -/
theorem Sequenced.passYield (h : Sequenced i s) : Sequenced i s.passYield := by
  obtain ⟨n, k, he⟩ := passYield_eq s
  rw [he]
  exact ⟨h.section_, h.masked, h.phase, h.progress⟩

/-- However far a command has come, its place is one of its own, and the flag outside its sections is as it found it. -/
theorem exec_sequenced_outerGie (hw : i.writtenReg ≠ some .sreg) (hs : Sequenced i s) (h : exec i s = .next t) :
    Sequenced i t ∧ t.outerGie = s.outerGie := by
  rw [exec_eq_runCommand] at h
  exact runCommand_keeps (P := fun a => Sequenced i a ∧ a.outerGie = s.outerGie)
    (fun a b ⟨ha, hg⟩ hab => ⟨microOp_sequenced ha hab, (microOp_outerGie hw ha hab).trans hg⟩)
    (fun a ⟨ha, hg⟩ => ⟨ha.passYield, (outerGie_congr (by simp) (by simp)).trans hg⟩) _ s t ⟨hs, rfl⟩ h

end

/-! ### The obligations -/

/-- Settles O18: a command keeps the flag outside its sections, and none is open where it starts and where it ends. -/
theorem interruptFlagRestored : Obligations.InterruptFlagRestored := by
  intro i s t hrest h hp hw
  obtain ⟨ht, hg⟩ := exec_sequenced_outerGie hw hrest.sequenced h
  obtain ⟨-, hsaved, -⟩ := hrest
  rwa [outerGie_of_saved_none (ht.saved_none rfl hp rfl), outerGie_of_saved_none hsaved] at hg

/-- Settles O7: what a `yield` does, and that it does nothing while interrupts are masked. -/
theorem interruptAgentOnlyRecords : Obligations.InterruptAgentOnlyRecords :=
  fun s => ⟨passYield_eq s, passYield_masked⟩

end Sys2Proof.Machine
end

section
/-! The end of the run (spec/70_reset_and_hazards.md R156): where the model takes it to be over, and its own answer to a
step from there (log entry 5). -/

namespace Sys2Proof.Machine

/-- The run is over exactly where `CP` stands behind the last command and none is in progress (R156). -/
theorem State.runOver_iff {s : State} : s.runOver = true ↔ s.cp = s.cmds.length ∧ s.point = .idle := by
  simp [State.runOver]

/-- The step asks for the end of the run before it fetches. -/
theorem step_of_runOver {s : State} (h : s.runOver = true) : step s = .fault .endOfRun := by
  simp [step, h]

/-- Settles O8: `CP` at the end and no command in progress is the test the step makes first. -/
theorem runEndsAfterLastCommand : Obligations.RunEndsAfterLastCommand :=
  fun _ hcp hpoint => step_of_runOver (State.runOver_iff.mpr ⟨hcp, hpoint⟩)

end Sys2Proof.Machine
end
